-- ==== Sys2Proof/Word.lean ====
section
/-! DEFINITION. The word of the block, an unsigned byte (spec/00_scope.md R6 `W`, R7, R8), and the store a payload buffer
is held in (spec/20_memory.md R50). -/

namespace Sys2Proof

/-- A byte: every field of a frame, every register of the datapath (R6). Arithmetic on it is modulo 256 (R8). -/
abbrev Byte := BitVec 8

/-- A byte store: (index, byte) pairs. `Memory.wf` (Machine/Memory.lean) is its one canonical form; an index that is not
listed reads as 0, the value ZERO_PKT gives every payload byte (spec/10_state.md R22). -/
abbrev Memory := List Host.Cell

end Sys2Proof
end

