-- ==== Sys2Proof/Config.lean ====
section
/-! DEFINITION. The parameters of the block (spec/00_scope.md R6) and the values the spec leaves free
(spec/93_implementation_defined.md I7, I10, I11). -/

namespace Sys2Proof.Config

/-- `MARKER`, the start-of-frame byte and the seed of the checksum (R6; 41_checksum.md R150). -/
abbrev marker : Byte := 0x02#8

/-- `OVERHEAD`, the header bytes and the checksum byte (R6). -/
abbrev overhead : Nat := 6

/-- `MIN_LEN`, the smallest legal LENGTH (R6). -/
abbrev minLen : Nat := 6

/-- `MAX_LEN`, the largest legal LENGTH (R6, 90_conflicts.md C2). -/
abbrev maxLen : Nat := 255

/-- `PAYLOAD_CAP`, the cells of a payload buffer (R6, 92_eei_decisions.md D5; log 16). -/
abbrev payloadCap : Nat := 256

/-- `MAX_PAYLOAD`, the largest meaningful payload, `MAX_LEN - OVERHEAD` (R6). -/
abbrev maxPayload : Nat := 249

/-- `READ_TIMEOUT`: OPEN (R6, 93 I10). No rule reads it. -/
opaque readTimeout : Nat

/-- `BAUD`: OPEN (R6, 93 I11). No rule reads it. -/
opaque baud : Nat

/-- FREE VALUE (93 I7 "any value"; log 9): what `tx_byte` shows when the serializer has no byte on offer, at the step with
this number. Nothing constrains it. -/
opaque freeTxByte : Nat → Byte

end Sys2Proof.Config
end

