-- ==== Sys2Proof/Machine/Memory.lean ====
section
/-! DEFINITION. The payload buffer as an addressed store (spec/20_memory.md R50, R51): MemRead and MemWrite of one byte, in
one canonical form. -/

namespace Sys2Proof

/-- The canonical form from index `lo` up: indexes strictly rising and inside the buffer, no entry equal to 0. -/
def Memory.wfFrom (lo : Nat) : Memory → Bool
  | [] => true
  | (a, v) :: m => decide (lo ≤ a) && decide (a < Config.payloadCap) && decide (v ≠ 0#8) && Memory.wfFrom (a + 1) m

/-- The canonical form of a payload buffer: equal buffers are equal lists. -/
def Memory.wf (m : Memory) : Bool := Memory.wfFrom 0 m

namespace Machine

/-- `MemRead(i, 1)` (R51; 00_scope.md R9). A cell nothing has written reads as 0 (10_state.md R22; log 15). -/
def memRead : Memory → Nat → Byte
  | [], _ => 0#8
  | (a, v) :: m, i => if a = i then v else memRead m i

/-- `MemWrite(i, 1, v)` (R51; 00_scope.md R9), keeping the canonical form. -/
def memWrite : Memory → Nat → Byte → Memory
  | [], i, v => if v = 0#8 then [] else [(i, v)]
  | (a, w) :: m, i, v =>
    if i < a then (if v = 0#8 then (a, w) :: m else (i, v) :: (a, w) :: m)
    else if i = a then (if v = 0#8 then m else (i, v) :: m)
    else (a, w) :: memWrite m i v

/-- The buffer that holds bytes `0 .. k-1` of `data` and zeros above (the copy loop of 42_serializer.md R174). -/
def copyFirst (data : Memory) : Nat → Memory
  | 0 => []
  | k + 1 => memWrite (copyFirst data k) k (memRead data k)

/-- Bytes `0 .. k-1` of a buffer, in index order. -/
def payloadBytes (m : Memory) (k : Nat) : List Byte := (List.range k).map (memRead m)

/-- The buffer that holds a list of bytes from index `at_` up, over what `m` holds. -/
def storeList (m : Memory) : Nat → List Byte → Memory
  | _, [] => m
  | i, v :: vs => storeList (memWrite m i v) (i + 1) vs

end Machine
end Sys2Proof
end

