-- ==== Sys2Proof/Syntax.lean ====
section
/-! DEFINITION. The packet value (spec/10_state.md R20), the parse step (spec/30_encoding.md R76), the builder's inputs
(R79) and the ONE inductive of transactions: a constructor for each row of spec/opcode_table.json (R81, R82). -/

namespace Sys2Proof

/-- A packet (R20): six bytes and a payload buffer. -/
structure Packet where
  stx : Byte
  id : Byte
  length : Byte
  command : Byte
  sequence : Byte
  payload : Memory
  checksum : Byte
deriving DecidableEq, Repr

/-- The 3-bit parse step (R28, R76): six legal values and the two illegal codes (R78). -/
inductive ParseStep where
  | stx
  | id
  | length
  | command
  | sequence
  | data
  /-- code `110`, illegal (R78) -/
  | illegal6
  /-- code `111`, illegal (R78) -/
  | illegal7
deriving DecidableEq, Repr

/-- The builder's input ports `b_id`, `b_command`, `b_sequence`, `b_n`, `b_data` (R79). -/
structure BuilderIn where
  id : Byte
  command : Byte
  sequence : Byte
  n : BitVec 9
  data : Memory
deriving DecidableEq, Repr

/-- One transaction: one constructor for each row of the opcode table. Its arguments are the port values the row's key
leaves open, and, for the two fault rows, the step code (part of the key R81 decodes on). -/
inductive Instr where
  /-- FEED.FAULTED, spec/40_parser.md R112 -/
  | feedFaulted (step : ParseStep) (v : Byte)
  /-- FEED.ILLEGAL_STEP, R111 -/
  | feedIllegalStep (step : ParseStep) (v : Byte)
  /-- FEED.STX_ACCEPT, R101 (the byte is the marker) -/
  | feedStxAccept
  /-- FEED.STX_DISCARD, R102 -/
  | feedStxDiscard (v : Byte)
  /-- FEED.ID, R103 -/
  | feedId (v : Byte)
  /-- FEED.LENGTH_INVALID, R105 -/
  | feedLengthInvalid (v : Byte)
  /-- FEED.LENGTH, R104 -/
  | feedLength (v : Byte)
  /-- FEED.COMMAND, R106 -/
  | feedCommand (v : Byte)
  /-- FEED.SEQUENCE, R107 -/
  | feedSequence (v : Byte)
  /-- FEED.DATA_STORE, R108 -/
  | feedDataStore (v : Byte)
  /-- FEED.DATA_CHK_OK, R109 -/
  | feedDataChkOk (v : Byte)
  /-- FEED.DATA_CHK_BAD, R110 -/
  | feedDataChkBad (v : Byte)
  /-- IDLE, R113 -/
  | idle
  /-- SER.START, spec/42_serializer.md R177; `txReady` is the key's don't-care bit -/
  | serStart (txReady : Bool) (pkt : Packet)
  /-- SER.START_INVALID, R178 -/
  | serStartInvalid (txReady : Bool) (pkt : Packet)
  /-- SER.IDLE, R179 -/
  | serIdle (txReady : Bool)
  /-- SER.EMIT, R180; `serValid` is the key's don't-care bit (a request that is not taken, R176) -/
  | serEmit (serValid : Bool)
  /-- SER.WAIT, R181 -/
  | serWait (serValid : Bool)
  /-- BUILD, R174 -/
  | build (b : BuilderIn)
  /-- BUILD.INVALID, R175 -/
  | buildInvalid (b : BuilderIn)
  /-- RESET, spec/70_reset_and_hazards.md R240 -/
  | reset
deriving DecidableEq, Repr

end Sys2Proof
end

