-- ==== Sys2Proof/Machine/Packet.lean ====
section
/-! DEFINITION. The functions on packets: ZERO_PKT, the payload size, well-formed, valid and meaningfully equal packets
(spec/10_state.md R21 to R24), the checksum (spec/41_checksum.md R150, R151), SER and BUILD as functions
(spec/42_serializer.md R170, R171, R174, R175), the minimum-length check (spec/40_parser.md R105). -/

namespace Sys2Proof.Machine

/-- `ZERO_PKT` (10_state.md R22). -/
def zeroPkt : Packet :=
  { stx := 0#8, id := 0#8, length := 0#8, command := 0#8, sequence := 0#8, payload := [], checksum := 0#8 }

/-- The precondition of every use of `n(p)`: `6 <= length` (10_state.md R23; 30_encoding.md R72). -/
def lengthOk (length : Byte) : Bool := decide (Config.minLen ≤ length.toNat)

/-- The payload size `n(p) = p.length - 6` (10_state.md R23). The spec leaves it undefined when `p.length < 6` and never
evaluates it there; every use in this model stands under `lengthOk p.length`. -/
def payloadSize (p : Packet) : Nat := p.length.toNat - Config.overhead

/-- The minimum-length check on a LENGTH byte, with the extra condition of a `PAYLOAD_CAP` below 249
(40_parser.md R105; 92_eei_decisions.md D5). -/
def lengthRejected (cap : Nat) (v : Byte) : Bool :=
  !lengthOk v || decide (cap < v.toNat - Config.overhead)

/-- A packet is well-formed (10_state.md R21). `length <= 255` holds of every byte. -/
abbrev WellFormedPacket (p : Packet) : Prop := p.stx = Config.marker ∧ lengthOk p.length = true

/-- The body of a frame: id, length, command, sequence, payload (30_encoding.md R75; 41_checksum.md R151). -/
def bodyBytes (p : Packet) : List Byte :=
  p.id :: p.length :: p.command :: p.sequence :: payloadBytes p.payload (payloadSize p)

/-- One byte of the checksum: XOR first, wrapping increment second (41_checksum.md R150). -/
def chkStep (acc b : Byte) : Byte := (acc ^^^ b) + 1#8

/-- `CHK(b_1 .. b_k)` (41_checksum.md R150): seeded with the marker. -/
def chk (bs : List Byte) : Byte := bs.foldl chkStep Config.marker

/-- `CHKP(p)` (41_checksum.md R151), asked for only when `p.length >= 6`. -/
def chkp (p : Packet) : Byte := chk (bodyBytes p)

/-- A packet is valid (10_state.md R21). -/
abbrev ValidPacket (p : Packet) : Prop := WellFormedPacket p ∧ p.checksum = chkp p

/-- `p ≡ q` (10_state.md R24). -/
abbrev MeaningfullyEqual (p q : Packet) : Prop :=
  p.stx = q.stx ∧ p.id = q.id ∧ p.length = q.length ∧ p.command = q.command ∧ p.sequence = q.sequence ∧
    p.checksum = q.checksum ∧
    (lengthOk p.length = true → ∀ i < payloadSize p, memRead p.payload i = memRead q.payload i)

/-- `SER(p)` (42_serializer.md R170) for a packet with `length >= 6`. -/
def serBytes (p : Packet) : List Byte :=
  [p.stx, p.id, p.length, p.command, p.sequence] ++ payloadBytes p.payload (payloadSize p) ++ [p.checksum]

/-- The source's `serialize` (42_serializer.md R170, R171): no bytes, InvalidFrame, when `length < 6`. -/
def serialize (p : Packet) : Option (List Byte) := if lengthOk p.length then some (serBytes p) else none

/-- `b_n` is in BUILD's range (30_encoding.md R82). -/
def buildFits (n : BitVec 9) : Bool := decide (n.toNat ≤ Config.maxPayload)

/-- The packet BUILD makes before its checksum is set (42_serializer.md R174). -/
def buildUnchecked (b : BuilderIn) : Packet :=
  { zeroPkt with
    stx := Config.marker
    id := b.id
    length := BitVec.ofNat 8 (Config.overhead + b.n.toNat)
    command := b.command
    sequence := b.sequence
    payload := copyFirst b.data b.n.toNat }

/-- `BUILD(b_id, b_command, b_sequence, b_n, b_data)` when `b_n <= 249` (42_serializer.md R174). -/
def buildPkt (b : BuilderIn) : Packet := { buildUnchecked b with checksum := chkp (buildUnchecked b) }

end Sys2Proof.Machine
end

