-- ==== Sys2Proof/WellFormed.lean ====
section
/-! DEFINITION. Which terms of `Instr` the encodings of spec/30_encoding.md R81 and R82 allow: the row conditions on the
operands, and the canonical form of an operand that is a store. -/

namespace Sys2Proof

/-- The six legal parse steps (spec/10_state.md R28). -/
def ParseStep.legal : ParseStep → Bool
  | .stx | .id | .length | .command | .sequence | .data => true
  | .illegal6 | .illegal7 => false

/-- The row conditions R81 and R82 put on a transaction's own operands. -/
def WellFormed : Instr → Bool
  | .feedFaulted _ _ => true
  | .feedIllegalStep st _ => !st.legal
  | .feedStxAccept => true
  | .feedStxDiscard v => decide (v ≠ Config.marker)
  | .feedId _ => true
  | .feedLengthInvalid v => Machine.lengthRejected Config.payloadCap v
  | .feedLength v => !Machine.lengthRejected Config.payloadCap v
  | .feedCommand _ => true
  | .feedSequence _ => true
  | .feedDataStore _ => true
  | .feedDataChkOk _ => true
  | .feedDataChkBad _ => true
  | .idle => true
  | .serStart _ p => Machine.lengthOk p.length && Memory.wf p.payload
  | .serStartInvalid _ p => !Machine.lengthOk p.length && Memory.wf p.payload
  | .serIdle _ => true
  | .serEmit _ => true
  | .serWait _ => true
  | .build b => Machine.buildFits b.n && Memory.wf b.data
  | .buildInvalid b => !Machine.buildFits b.n && Memory.wf b.data
  | .reset => true

end Sys2Proof
end

