-- ==== Sys2Proof/Decode.lean ====
section
/-! DEFINITION. The transaction decoder and its encoder (spec/30_encoding.md R76, R79 to R82). A transaction is encoded in
the values its agent's ports and key bits take at a step: FEED in the 12-bit key `K = {P.fault, P.step, v}` and the
condition of the DATA rows, IDLE in `{rst, rx_valid}`, the serializer's in `{S.busy, ser_valid, tx_ready}` and `ser_pkt`,
BUILD in the builder's inputs, RESET in `{rst}`. -/

namespace Sys2Proof

/-- The 3-bit code of a parse step (R76). -/
def ParseStep.code : ParseStep → BitVec 3
  | .stx => 0b000#3
  | .id => 0b001#3
  | .length => 0b010#3
  | .command => 0b011#3
  | .sequence => 0b100#3
  | .data => 0b101#3
  | .illegal6 => 0b110#3
  | .illegal7 => 0b111#3

/-- The parse step of a 3-bit code (R76, R78). -/
def ParseStep.ofCode (c : BitVec 3) : ParseStep :=
  if c = 0b000#3 then .stx
  else if c = 0b001#3 then .id
  else if c = 0b010#3 then .length
  else if c = 0b011#3 then .command
  else if c = 0b100#3 then .sequence
  else if c = 0b101#3 then .data
  else if c = 0b110#3 then .illegal6
  else .illegal7

/-- Which of the conditions of rows 10, 11 and 12 of R81 holds: the part of a FEED's selection the key cannot hold. -/
inductive DataCond where
  /-- `P.cnt < n(P.pkt)` -/
  | store
  /-- `P.cnt >= n(P.pkt)` and `v = CHKP(P.pkt)` -/
  | chkOk
  /-- `P.cnt >= n(P.pkt)` and `v != CHKP(P.pkt)` -/
  | chkBad
deriving DecidableEq, Repr

/-- The values one agent's key and operand ports take at a step. -/
inductive Sample where
  /-- FEED: the key `K[11:0]`, and the DATA condition, absent where `n(P.pkt)` is undefined (10_state.md R23) -/
  | feed (key : BitVec 12) (cond : Option DataCond)
  /-- the parser port key `{rst, rx_valid}` -/
  | parserPort (key : BitVec 2)
  /-- the serializer key `{S.busy, ser_valid, tx_ready}` and `ser_pkt` -/
  | serializer (key : BitVec 3) (pkt : Packet)
  /-- the builder's inputs, `b_n` the key -/
  | builder (b : BuilderIn)
  /-- the port key `{rst}` -/
  | rst (key : BitVec 1)
deriving DecidableEq, Repr

/-- Why a sample is no transaction, each by name. -/
inductive DecodeError where
  /-- a FEED in DATA while `P.pkt.length < 6`: `n(P.pkt)` is undefined, no rule has a row for it (70 R255, 93 I4) -/
  | payloadSizeUndefined
  /-- `rst = 0`, `rx_valid = 1` is a FEED: it is decoded on its key `K`, not on the port key (R80) -/
  | feedNeedsItsKey
  /-- `rst = 1` in the parser port key: RESET, decoded on `{rst}`, pre-empts the parser's transaction (R80, 70 R241) -/
  | preemptedByReset
  /-- `rst = 0` on the reset key: no RESET is selected (R82) -/
  | resetNotRaised
deriving DecidableEq, Repr

/-- The FEED rows of R81, in their order. -/
def decodeFeed (key : BitVec 12) (cond : Option DataCond) : Except DecodeError Instr :=
  let fault := key.extractLsb' 11 1
  let st := ParseStep.ofCode (key.extractLsb' 8 3)
  let v : Byte := key.extractLsb' 0 8
  if fault = 1#1 then .ok (.feedFaulted st v)
  else match st with
    | .illegal6 => .ok (.feedIllegalStep .illegal6 v)
    | .illegal7 => .ok (.feedIllegalStep .illegal7 v)
    | .stx => .ok (if v = Config.marker then .feedStxAccept else .feedStxDiscard v)
    | .id => .ok (.feedId v)
    | .length => .ok (if Machine.lengthRejected Config.payloadCap v then .feedLengthInvalid v else .feedLength v)
    | .command => .ok (.feedCommand v)
    | .sequence => .ok (.feedSequence v)
    | .data =>
      match cond with
      | some .store => .ok (.feedDataStore v)
      | some .chkOk => .ok (.feedDataChkOk v)
      | some .chkBad => .ok (.feedDataChkBad v)
      | none => .error .payloadSizeUndefined

/-- The serializer rows of R82, on the key `{S.busy, ser_valid, tx_ready}`. -/
def decodeSerializer (key : BitVec 3) (pkt : Packet) : Instr :=
  let busy := key.getLsbD 2
  let serValid := key.getLsbD 1
  let txReady := key.getLsbD 0
  if busy then (if txReady then .serEmit serValid else .serWait serValid)
  else if serValid then
    (if Machine.lengthOk pkt.length then .serStart txReady pkt else .serStartInvalid txReady pkt)
  else .serIdle txReady

/-- The transaction a sample selects (R80, R81, R82). Total: what selects no transaction is rejected by name. -/
def decode : Sample → Except DecodeError Instr
  | .feed key cond => decodeFeed key cond
  | .parserPort key =>
    if key = 0b00#2 then .ok .idle
    else if key = 0b01#2 then .error .feedNeedsItsKey
    else .error .preemptedByReset
  | .serializer key pkt => .ok (decodeSerializer key pkt)
  | .builder b => .ok (if Machine.buildFits b.n then .build b else .buildInvalid b)
  | .rst key => if key = 1#1 then .ok .reset else .error .resetNotRaised

/-- The FEED key `{fault, step, v}` (R81). -/
def feedKeyBits (fault : Bool) (st : ParseStep) (v : Byte) : BitVec 12 := BitVec.ofBool fault ++ st.code ++ v

/-- The serializer key `{S.busy, ser_valid, tx_ready}` (R82). -/
def serKeyBits (busy serValid txReady : Bool) : BitVec 3 :=
  BitVec.ofBool busy ++ BitVec.ofBool serValid ++ BitVec.ofBool txReady

/-- The sample that selects a transaction (R81, R82). A port the row does not read is 0. -/
def encode : Instr → Sample
  | .feedFaulted st v => .feed (feedKeyBits true st v) none
  | .feedIllegalStep st v => .feed (feedKeyBits false st v) none
  | .feedStxAccept => .feed (feedKeyBits false .stx Config.marker) none
  | .feedStxDiscard v => .feed (feedKeyBits false .stx v) none
  | .feedId v => .feed (feedKeyBits false .id v) none
  | .feedLengthInvalid v => .feed (feedKeyBits false .length v) none
  | .feedLength v => .feed (feedKeyBits false .length v) none
  | .feedCommand v => .feed (feedKeyBits false .command v) none
  | .feedSequence v => .feed (feedKeyBits false .sequence v) none
  | .feedDataStore v => .feed (feedKeyBits false .data v) (some .store)
  | .feedDataChkOk v => .feed (feedKeyBits false .data v) (some .chkOk)
  | .feedDataChkBad v => .feed (feedKeyBits false .data v) (some .chkBad)
  | .idle => .parserPort 0b00#2
  | .serStart txReady p => .serializer (serKeyBits false true txReady) p
  | .serStartInvalid txReady p => .serializer (serKeyBits false true txReady) p
  | .serIdle txReady => .serializer (serKeyBits false false txReady) Machine.zeroPkt
  | .serEmit serValid => .serializer (serKeyBits true serValid true) Machine.zeroPkt
  | .serWait serValid => .serializer (serKeyBits true serValid false) Machine.zeroPkt
  | .build b => .builder b
  | .buildInvalid b => .builder b
  | .reset => .rst 1#1

/-- A row of spec/opcode_table.json: its mnemonic, and the mask and match of its key. -/
structure Row where
  mnemonic : String
  mask : Nat
  pattern : Nat
deriving DecidableEq, Repr

/-- The opcode table's row of a transaction (R81, R82). -/
def Instr.row : Instr → Row
  | .feedFaulted _ _ => ⟨"FEED.FAULTED", 0x800, 0x800⟩
  | .feedIllegalStep _ _ => ⟨"FEED.ILLEGAL_STEP", 0xE00, 0x600⟩
  | .feedStxAccept => ⟨"FEED.STX_ACCEPT", 0xFFF, 0x002⟩
  | .feedStxDiscard _ => ⟨"FEED.STX_DISCARD", 0xF00, 0x000⟩
  | .feedId _ => ⟨"FEED.ID", 0xF00, 0x100⟩
  | .feedLengthInvalid _ => ⟨"FEED.LENGTH_INVALID", 0xF00, 0x200⟩
  | .feedLength _ => ⟨"FEED.LENGTH", 0xF00, 0x200⟩
  | .feedCommand _ => ⟨"FEED.COMMAND", 0xF00, 0x300⟩
  | .feedSequence _ => ⟨"FEED.SEQUENCE", 0xF00, 0x400⟩
  | .feedDataStore _ => ⟨"FEED.DATA_STORE", 0xF00, 0x500⟩
  | .feedDataChkOk _ => ⟨"FEED.DATA_CHK_OK", 0xF00, 0x500⟩
  | .feedDataChkBad _ => ⟨"FEED.DATA_CHK_BAD", 0xF00, 0x500⟩
  | .idle => ⟨"IDLE", 0b11, 0b00⟩
  | .serStart _ _ => ⟨"SER.START", 0b110, 0b010⟩
  | .serStartInvalid _ _ => ⟨"SER.START_INVALID", 0b110, 0b010⟩
  | .serIdle _ => ⟨"SER.IDLE", 0b110, 0b000⟩
  | .serEmit _ => ⟨"SER.EMIT", 0b101, 0b101⟩
  | .serWait _ => ⟨"SER.WAIT", 0b101, 0b100⟩
  | .build _ => ⟨"BUILD", 0x000, 0x000⟩
  | .buildInvalid _ => ⟨"BUILD.INVALID", 0x000, 0x000⟩
  | .reset => ⟨"RESET", 0b1, 0b1⟩

/-- The key bits of a sample, as the table numbers them. -/
def Sample.key : Sample → Nat
  | .feed key _ => key.toNat
  | .parserPort key => key.toNat
  | .serializer key _ => key.toNat
  | .builder b => b.n.toNat
  | .rst key => key.toNat

/-- A key lies in a row: `key & mask = match`. -/
def Row.hits (r : Row) (key : Nat) : Bool := decide (key &&& r.mask = r.pattern)

/-- The instruction the decoder reads from a word of the opcode table (log 13). A word of two bytes is a FEED key, its DATA
condition the first of the table's rows; a word of one byte is the reset key, the parser port key or the serializer key,
in that order of precedence, its operand ports 0. -/
def decodeTableWord (nbits w : Nat) : Option Instr :=
  if nbits = 16 then
    (if w < 4096 then (decode (.feed (BitVec.ofNat 12 w) (some .store))).toOption else none)
  else if nbits = 8 then
    (if w = 1 then (decode (.rst 1#1)).toOption
     else if w = 0 then (decode (.parserPort 0b00#2)).toOption
     else if w < 8 then (decode (.serializer (BitVec.ofNat 3 w) Machine.zeroPkt)).toOption
     else none)
  else none

end Sys2Proof
end

