-- ==== Sys2Proof/Machine/State.lean ====
section
/-! DEFINITION. The state of the block (spec/10_state.md R25, R36), the values at its input ports still to come, the record
of a run (spec/60_exceptions.md R200, R224), the reset values (10_state.md R39), and the reasons a step stops. -/

namespace Sys2Proof.Machine

/-- `P.status`, 2 bits (10_state.md R27; 30_encoding.md R77). -/
inductive ParserStatus where
  | none
  | packet
  | checksumMismatch
  | invalidFrame
deriving DecidableEq, Repr

/-- `S.status`, 2 bits in the same code space (10_state.md R36; 30_encoding.md R77). The serializer never produces
`checksumMismatch`. -/
inductive SerStatus where
  | none
  | accepted
  | checksumMismatch
  | invalidFrame
deriving DecidableEq, Repr

/-- The parser state `P` (10_state.md R25). -/
structure ParserState where
  step : ParseStep
  cnt : Byte
  pkt : Packet
  out : Packet
  status : ParserStatus
  fault : Bool
deriving DecidableEq, Repr

/-- The serializer state `S` (10_state.md R36). -/
structure SerializerState where
  busy : Bool
  idx : Byte
  buf : Packet
  status : SerStatus
deriving DecidableEq, Repr

/-- The events of the block, each with the information it carries (60_exceptions.md R200). No register holds it: it lives in
the run's record only (92_eei_decisions.md D25). -/
inductive Event where
  | framingDesync
  | checksumMismatch (received expected : Byte)
  /-- InvalidFrame at the LENGTH byte -/
  | invalidFrameParse (length : Byte)
  /-- InvalidFrame of a packet to serialize -/
  | invalidFrameSerialize (length : Byte)
  /-- InvalidFrame of a construction -/
  | invalidFrameConstruct (n : BitVec 9)
  | internalError (step : ParseStep)
deriving DecidableEq, Repr

/-- What one transaction shows (60_exceptions.md R224, R207: at most one event). -/
inductive Obs where
  /-- `status`, `out_pkt` if the status is PACKET, `fault` -/
  | parser (status : ParserStatus) (outPkt : Option Packet) (fault : Bool) (event : Option Event)
  /-- `ser_status`, and the byte handed to `write_byte` -/
  | serializer (status : SerStatus) (written : Option Byte) (event : Option Event)
  /-- `b_pkt`, `b_err` -/
  | builder (pkt : Packet) (err : Bool) (event : Option Event)
  /-- RESET: `status = NONE`, `fault = 0`, `ser_status = NONE` (70_reset_and_hazards.md R240) -/
  | reset
deriving DecidableEq, Repr

/-- The input ports of one agent at one step (30_encoding.md R79, R80, R84; log 1, 2). `ctx` numbers the context outside the
block that drives the port (20_memory.md R63; log 12). -/
inductive Request where
  /-- `rst = 1` -/
  | rst
  /-- `rst = 0`, `rx_valid = 1`, `rx_byte = v` -/
  | rx (ctx : Nat) (v : Byte)
  /-- `rst = 0`, `rx_valid = 0` -/
  | rxIdle
  /-- `rst = 0`, `ser_valid`, `ser_pkt`, `tx_ready` -/
  | ser (ctx : Nat) (valid : Bool) (pkt : Packet) (txReady : Bool)
  /-- the builder's inputs -/
  | build (b : BuilderIn)
deriving DecidableEq, Repr

/-- The state. `P` and `S` are the block's (10_state.md R25, R36). `B` (the values at the builder's input ports), `inputs`
(the port values to come, first first), `reader` and `writer` (the contexts that have driven the FEED and `ser_valid` ports)
and `trace` (the run's record, newest first) are the model's own (log 2, 8, 10, 12). -/
structure State where
  P : ParserState
  S : SerializerState
  B : BuilderIn
  inputs : List Request
  reader : Option Nat
  writer : Option Nat
  trace : List Obs
deriving DecidableEq, Repr

/-- The parser's reset values (10_state.md R39). -/
def ParserState.reset : ParserState :=
  { step := .stx, cnt := 0#8, pkt := zeroPkt, out := zeroPkt, status := .none, fault := false }

/-- The serializer's reset values (10_state.md R39). -/
def SerializerState.reset : SerializerState :=
  { busy := false, idx := 0#8, buf := zeroPkt, status := .none }

/-- The machine right after its first RESET (10_state.md R39; 70_reset_and_hazards.md R244), nothing placed at its ports. The
builder's inputs are free (R40); the model names 0 for them (DESIGN CHOICE, log 10). -/
def State.reset : State :=
  { P := ParserState.reset
    S := SerializerState.reset
    B := { id := 0#8, command := 0#8, sequence := 0#8, n := 0#9, data := [] }
    inputs := []
    reader := none
    writer := none
    trace := [] }

/-- Reasons a step stops with a fault: none. Every error the spec describes is recovered or recorded in a next state
(60_exceptions.md R200, R208; 40_parser.md R111), so no rule raises a stop of the machine, and this type has no value
(log 7). Safe: nothing is claimed of a stop. -/
inductive Fault
deriving DecidableEq, Repr

/-- Reasons the model gives a step no meaning. -/
inductive Refusal where
  /-- an instruction without a meaning yet: raised by an arm of `exec` only (none is left). Safe. -/
  | notModelled (mnemonic : String)
  /-- a transaction run in a state whose key does not select it (30_encoding.md R81, R82): raised by a meaning called
  directly, never by `step`. The spec gives the row no effect there. Safe (log 5). -/
  | notSelected
  /-- the ports select no row of the opcode table: raised by `fetch`. Safe. Its one cause in a run is a FEED in DATA while
  `P.pkt.length < 6`, unreachable from RESET (10_state.md R23, 70 R255, 93 I4; log 6) -/
  | noRow (why : DecodeError)
  /-- a FEED from a context other than the first one (20_memory.md R63, 70 R252, 93 I5): raised by `fetch`. Safe (log 12). -/
  | secondFeedIssuer
  /-- `ser_valid` driven by a context other than the first one (20_memory.md R63, 70 R252, 93 I5): raised by `fetch`. Safe
  (log 12). -/
  | secondWriter
deriving DecidableEq, Repr

/-- The outcome of a transaction. -/
abbrev Outcome := Host.Outcome State Fault Refusal

end Sys2Proof.Machine
end

