-- ==== Sys2Proof/Machine/Flags.lean ====
section
/-! DEFINITION. The status codes (spec/30_encoding.md R77) and the one-bit flags and output ports computed from the state
(spec/10_state.md R27, R33; 30_encoding.md R79). None of them is stored. -/

namespace Sys2Proof.Machine

/-- The 2-bit code of `P.status` (R77). -/
def ParserStatus.code : ParserStatus → BitVec 2
  | .none => 0b00#2
  | .packet => 0b01#2
  | .checksumMismatch => 0b10#2
  | .invalidFrame => 0b11#2

/-- The 2-bit code of `S.status` (R77). -/
def SerStatus.code : SerStatus → BitVec 2
  | .none => 0b00#2
  | .accepted => 0b01#2
  | .checksumMismatch => 0b10#2
  | .invalidFrame => 0b11#2

/-- `pkt_valid` is `P.status = PACKET` (10_state.md R27). -/
def State.pktValid (s : State) : Bool := decide (s.P.status = .packet)

/-- `ser_ready` is `NOT S.busy` (10_state.md R33). -/
def State.serReady (s : State) : Bool := !s.S.busy

/-- `tx_valid` is `S.busy` (R79). -/
def State.txValid (s : State) : Bool := s.S.busy

/-- The validation of a received checksum byte: all 8 bits equal (spec/41_checksum.md R152). -/
def checksumAccepted (v : Byte) (p : Packet) : Bool := decide (v = chkp p)

/-- `b_err` of the builder's inputs (spec/42_serializer.md R174, R175). -/
def builderErr (b : BuilderIn) : Bool := !buildFits b.n

/-- `b_err` (R79). -/
def State.bErr (s : State) : Bool := builderErr s.B

end Sys2Proof.Machine
end

