-- ==== Sys2Proof/Machine/Operands.lean ====
section
/-! DEFINITION. The operand forms: the keys the block decodes on (spec/30_encoding.md R81, R82), the condition of the DATA
rows, the byte on `tx_byte`, the builder's packet, and what a FEED returns (spec/40_parser.md R114). -/

namespace Sys2Proof.Machine

/-- The FEED key `K = {P.fault, P.step, v}` (R81). -/
def feedKey (P : ParserState) (v : Byte) : BitVec 12 := feedKeyBits P.fault P.step v

/-- `P.cnt < n(P.pkt)` (R81 row 10). -/
def payloadOpen (P : ParserState) : Bool := decide (P.cnt.toNat < payloadSize P.pkt)

/-- Which DATA row's condition holds for the byte `v`; none where `n(P.pkt)` is undefined (R81; 10_state.md R23; log 6). -/
def dataCond (P : ParserState) (v : Byte) : Option DataCond :=
  if lengthOk P.pkt.length then
    some (if payloadOpen P then .store else if checksumAccepted v P.pkt then .chkOk else .chkBad)
  else none

/-- The serializer key `{S.busy, ser_valid, tx_ready}` (R82). -/
def serKey (S : SerializerState) (serValid txReady : Bool) : BitVec 3 := serKeyBits S.busy serValid txReady

/-- The sample of one agent's key and operands at a step (R80). -/
def sampleOf (r : Request) (s : State) : Sample :=
  match r with
  | .rst => .rst 1#1
  | .rx _ v => .feed (feedKey s.P v) (dataCond s.P v)
  | .rxIdle => .parserPort 0b00#2
  | .ser _ valid pkt txReady => .serializer (serKey s.S valid txReady) pkt
  | .build b => .builder b

/-- The byte the serializer has on offer: `SER(S.buf)[S.idx]` while `S.busy = 1` (R79; 42_serializer.md R170). There is none
while it is idle, and none for a buffer or an index that `SER` gives no byte for (R171), which no run reaches. -/
def offered (S : SerializerState) : Option Byte :=
  if S.busy && lengthOk S.buf.length then (serBytes S.buf)[S.idx.toNat]? else none

/-- `tx_byte` (R79): the byte on offer; a free value where there is none (93 I7; log 9). -/
def State.txByte (s : State) : Byte := (offered s.S).getD (Config.freeTxByte s.trace.length)

/-- `b_pkt` of the builder's inputs (42_serializer.md R174, R175). -/
def builderPkt (b : BuilderIn) : Packet := if buildFits b.n then buildPkt b else zeroPkt

/-- `b_pkt` (R79): combinational, at every step (R80). -/
def State.bPkt (s : State) : Packet := builderPkt s.B

/-- The source's `feed(byte) -> Option<Packet>`, read from the state a FEED left (40_parser.md R114). -/
def State.feedResult (s : State) : Option Packet := if s.pktValid then some s.P.out else none

/-- The canonical `(bool, Packet)` of the same FEED (40_parser.md R114; 90_conflicts.md C4). -/
def State.feedPair (s : State) : Bool × Packet := (s.pktValid, s.P.out)

end Sys2Proof.Machine
end

