-- ==== Sys2Proof/Machine/Ops.lean ====
section
/-! DEFINITION. The operations the transactions share: how a transaction of each agent ends, the recovery entry of the
parser's errors and the entry of InternalError (spec/60_exceptions.md R204, R208), and the selection check. -/

namespace Sys2Proof.Machine

/-- A transaction takes place only in a state whose key selects it (30_encoding.md R81, R82; log 5). -/
def whenSelected (c : Bool) (next : State) : Outcome := if c then .next next else .refused .notSelected

/-- The key part `P.fault = 0`, `P.step = st` of a FEED row (R81). -/
def parserAt (s : State) (st : ParseStep) : Bool := !s.P.fault && decide (s.P.step = st)

/-- The key part of the DATA rows, with `n(P.pkt)` defined (R81; 10_state.md R23). -/
def parserAtData (s : State) : Bool := parserAt s .data && lengthOk s.P.pkt.length

/-- `out_pkt` in the steps with PACKET (60_exceptions.md R224). -/
def shownPacket (P : ParserState) : Option Packet := if P.status = .packet then some P.out else none

/-- A parser transaction ends with the parser state `P`; the run's record takes one entry (R224). -/
def parserDone (s : State) (P : ParserState) (e : Option Event) : State :=
  { s with P := P, trace := .parser P.status (shownPacket P) P.fault e :: s.trace }

/-- A serializer transaction ends with the serializer state `S`, `w` the byte handed to `write_byte` (R224). -/
def serializerDone (s : State) (S : SerializerState) (w : Option Byte) (e : Option Event) : State :=
  { s with S := S, trace := .serializer S.status w e :: s.trace }

/-- A builder evaluation on the inputs `b`, with the outputs it gives (42_serializer.md R174, R175). -/
def builderDone (s : State) (b : BuilderIn) (pkt : Packet) (err : Bool) (e : Option Event) : State :=
  { s with B := b, trace := .builder pkt err e :: s.trace }

/-- RESET ends with both agents at their reset values; the record keeps what it holds (70_reset_and_hazards.md R240, R243). -/
def resetDone (s : State) : State :=
  { s with P := ParserState.reset, S := SerializerState.reset, trace := .reset :: s.trace }

/-- The return to STX: the frame is discarded, the counter cleared, the status written (60_exceptions.md R208; the same
return ends a good frame, 40_parser.md R109). `P.out` and `P.fault` are kept. -/
def returnToStx (P : ParserState) (st : ParserStatus) : ParserState :=
  { P with pkt := zeroPkt, cnt := 0#8, step := .stx, status := st }

/-- TAKING A PARSER ERROR (InvalidFrame at LENGTH, ChecksumMismatch): nothing is saved and there is no vector; recovery is
complete at the end of the transaction (60_exceptions.md R208, R209). -/
def recoverFrom (s : State) (e : Event) (st : ParserStatus) : State := parserDone s (returnToStx s.P st) (some e)

/-- TAKING InternalError: `P.fault` is set until RESET and the record keeps it (40_parser.md R111; 60_exceptions.md R204;
log 7). -/
def raiseInternalError (s : State) (st : ParseStep) : State :=
  parserDone s { s.P with fault := true, status := .none } (some (.internalError st))

/-- Only `P.status <- NONE` (40_parser.md R102, R112, R113). -/
def parserHold (P : ParserState) : ParserState := { P with status := .none }

/-- A header field is recorded and the next step awaited (40_parser.md R101, R103, R104, R106, R107). -/
def recordField (s : State) (pkt : Packet) (next : ParseStep) : State :=
  parserDone s { s.P with pkt := pkt, step := next, status := .none } none

/-- Only `S.status <- NONE` (42_serializer.md R179, R181). -/
def serializerHold (S : SerializerState) : SerializerState := { S with status := .none }

/-- The serializer after the byte on offer is accepted (42_serializer.md R180). `length - 1` is a byte subtraction
(00_scope.md R8; log 17). -/
def afterEmit (S : SerializerState) : SerializerState :=
  if S.idx = S.buf.length - 1#8 then { S with busy := false, idx := 0#8, status := .none }
  else { S with idx := S.idx + 1#8, status := .none }

end Sys2Proof.Machine
end

