-- ==== Sys2Proof/Machine/Build.lean ====
section
/-! DEFINITION. The builder's evaluations (spec/42_serializer.md R174, R175): the inputs are presented (30_encoding.md R84)
and the outputs follow from them in the same step. -/

namespace Sys2Proof.Machine

/-- BUILD (R174). -/
def execBuild (b : BuilderIn) (s : State) : Outcome :=
  whenSelected (buildFits b.n) (builderDone s b (buildPkt b) false none)

/-- BUILD.INVALID (R175). -/
def execBuildInvalid (b : BuilderIn) (s : State) : Outcome :=
  whenSelected (!buildFits b.n) (builderDone s b zeroPkt true (some (.invalidFrameConstruct b.n)))

end Sys2Proof.Machine
end

