-- ==== Sys2Proof/Machine/Feed.lean ====
section
/-! DEFINITION. The parser's transactions (spec/40_parser.md): the twelve FEED rows, each under the key and condition of its
Encoding line, and IDLE. -/

namespace Sys2Proof.Machine

/-- FEED.FAULTED (R112). -/
def execFeedFaulted (st : ParseStep) (_v : Byte) (s : State) : Outcome :=
  whenSelected (s.P.fault && decide (s.P.step = st)) (parserDone s (parserHold s.P) none)

/-- FEED.ILLEGAL_STEP (R111). -/
def execFeedIllegalStep (st : ParseStep) (_v : Byte) (s : State) : Outcome :=
  whenSelected (parserAt s st && !st.legal) (raiseInternalError s st)

/-- FEED.STX_ACCEPT (R101). -/
def execFeedStxAccept (s : State) : Outcome :=
  whenSelected (parserAt s .stx) (recordField s { s.P.pkt with stx := Config.marker } .id)

/-- FEED.STX_DISCARD (R102); FramingDesync has no output, it stands in the record only (60_exceptions.md R201). -/
def execFeedStxDiscard (v : Byte) (s : State) : Outcome :=
  whenSelected (parserAt s .stx && decide (v ≠ Config.marker)) (parserDone s (parserHold s.P) (some .framingDesync))

/-- FEED.ID (R103). -/
def execFeedId (v : Byte) (s : State) : Outcome :=
  whenSelected (parserAt s .id) (recordField s { s.P.pkt with id := v } .length)

/-- FEED.LENGTH_INVALID (R105). -/
def execFeedLengthInvalid (v : Byte) (s : State) : Outcome :=
  whenSelected (parserAt s .length && lengthRejected Config.payloadCap v)
    (recoverFrom s (.invalidFrameParse v) .invalidFrame)

/-- FEED.LENGTH (R104): the payload counter is cleared with the field's recording. -/
def execFeedLength (v : Byte) (s : State) : Outcome :=
  whenSelected (parserAt s .length && !lengthRejected Config.payloadCap v)
    (parserDone s { s.P with pkt := { s.P.pkt with length := v }, cnt := 0#8, step := .command, status := .none } none)

/-- FEED.COMMAND (R106). -/
def execFeedCommand (v : Byte) (s : State) : Outcome :=
  whenSelected (parserAt s .command) (recordField s { s.P.pkt with command := v } .sequence)

/-- FEED.SEQUENCE (R107). -/
def execFeedSequence (v : Byte) (s : State) : Outcome :=
  whenSelected (parserAt s .sequence) (recordField s { s.P.pkt with sequence := v } .data)

/-- FEED.DATA_STORE (R108). -/
def execFeedDataStore (v : Byte) (s : State) : Outcome :=
  whenSelected (parserAtData s && payloadOpen s.P)
    (parserDone s
      { s.P with
        pkt := { s.P.pkt with payload := memWrite s.P.pkt.payload s.P.cnt.toNat v }
        cnt := s.P.cnt + 1#8
        status := .none }
      none)

/-- FEED.DATA_CHK_OK (R109): the packet, its checksum recorded, is cloned out, and the parser returns to STX. -/
def execFeedDataChkOk (v : Byte) (s : State) : Outcome :=
  whenSelected (parserAtData s && !payloadOpen s.P && checksumAccepted v s.P.pkt)
    (parserDone s (returnToStx { s.P with out := { s.P.pkt with checksum := v } } .packet) none)

/-- FEED.DATA_CHK_BAD (R110). -/
def execFeedDataChkBad (v : Byte) (s : State) : Outcome :=
  whenSelected (parserAtData s && !payloadOpen s.P && !checksumAccepted v s.P.pkt)
    (recoverFrom s (.checksumMismatch v (chkp s.P.pkt)) .checksumMismatch)

/-- IDLE (R113). -/
def execIdle (s : State) : Outcome := .next (parserDone s (parserHold s.P) none)

end Sys2Proof.Machine
end

