-- ==== Sys2Proof/Machine/Reset.lean ====
section
/-! DEFINITION. RESET (spec/70_reset_and_hazards.md R240 to R243). -/

namespace Sys2Proof.Machine

/-- RESET (R240): both agents, in one step. The builder is unaffected (R241); the record keeps a fault (R243). -/
def execReset (s : State) : Outcome := .next (resetDone s)

end Sys2Proof.Machine
end

