-- ==== Sys2Proof/Machine/Ser.lean ====
section
/-! DEFINITION. The serializer's transactions (spec/42_serializer.md R176 to R181). -/

namespace Sys2Proof.Machine

/-- SER.START (R177): the packet is latched, no byte goes out in this step. -/
def execSerStart (_txReady : Bool) (pkt : Packet) (s : State) : Outcome :=
  whenSelected (!s.S.busy && lengthOk pkt.length)
    (serializerDone s { busy := true, idx := 0#8, buf := pkt, status := .accepted } none none)

/-- SER.START_INVALID (R178). -/
def execSerStartInvalid (_txReady : Bool) (pkt : Packet) (s : State) : Outcome :=
  whenSelected (!s.S.busy && !lengthOk pkt.length)
    (serializerDone s { s.S with status := .invalidFrame } none (some (.invalidFrameSerialize pkt.length)))

/-- SER.IDLE (R179). -/
def execSerIdle (_txReady : Bool) (s : State) : Outcome :=
  whenSelected (!s.S.busy) (serializerDone s (serializerHold s.S) none none)

/-- SER.EMIT (R180): `tx_byte` is handed to `write_byte`. -/
def execSerEmit (_serValid : Bool) (s : State) : Outcome :=
  whenSelected s.S.busy (serializerDone s (afterEmit s.S) (some s.txByte) none)

/-- SER.WAIT (R181). -/
def execSerWait (_serValid : Bool) (s : State) : Outcome :=
  whenSelected s.S.busy (serializerDone s (serializerHold s.S) none none)

end Sys2Proof.Machine
end

