-- ==== Sys2Proof/Machine/Dispatch.lean ====
section
/-! DEFINITION. The dispatch: one arm for each row of spec/opcode_table.json. -/

namespace Sys2Proof.Machine

def exec (i : Instr) (s : State) : Host.Outcome State Fault Refusal :=
  match i with
  | .feedFaulted st v => Sys2Proof.Machine.execFeedFaulted st v s
  | .feedIllegalStep st v => Sys2Proof.Machine.execFeedIllegalStep st v s
  | .feedStxAccept => Sys2Proof.Machine.execFeedStxAccept s
  | .feedStxDiscard v => Sys2Proof.Machine.execFeedStxDiscard v s
  | .feedId v => Sys2Proof.Machine.execFeedId v s
  | .feedLengthInvalid v => Sys2Proof.Machine.execFeedLengthInvalid v s
  | .feedLength v => Sys2Proof.Machine.execFeedLength v s
  | .feedCommand v => Sys2Proof.Machine.execFeedCommand v s
  | .feedSequence v => Sys2Proof.Machine.execFeedSequence v s
  | .feedDataStore v => Sys2Proof.Machine.execFeedDataStore v s
  | .feedDataChkOk v => Sys2Proof.Machine.execFeedDataChkOk v s
  | .feedDataChkBad v => Sys2Proof.Machine.execFeedDataChkBad v s
  | .idle => Sys2Proof.Machine.execIdle s
  | .serStart txReady pkt => Sys2Proof.Machine.execSerStart txReady pkt s
  | .serStartInvalid txReady pkt => Sys2Proof.Machine.execSerStartInvalid txReady pkt s
  | .serIdle txReady => Sys2Proof.Machine.execSerIdle txReady s
  | .serEmit serValid => Sys2Proof.Machine.execSerEmit serValid s
  | .serWait serValid => Sys2Proof.Machine.execSerWait serValid s
  | .build b => Sys2Proof.Machine.execBuild b s
  | .buildInvalid b => Sys2Proof.Machine.execBuildInvalid b s
  | .reset => Sys2Proof.Machine.execReset s

end Sys2Proof.Machine
end

