-- ==== Sys2Proof/Machine/Fetch.lean ====
section
/-! DEFINITION. How a step gets its transaction: the next port values are taken, admitted (spec/20_memory.md R63), sampled
with the state's key bits, and decoded (spec/30_encoding.md R80 to R82). And how a word of the opcode table is placed. -/

namespace Sys2Proof.Machine

/-- One issuer of FEEDs and one writer, in the whole run: the first context that drives the port keeps it
(20_memory.md R63; 70_reset_and_hazards.md R252; log 12). -/
def checkIssuer (r : Request) (s : State) : Except Refusal State :=
  match r with
  | .rx ctx _ =>
    if s.reader = none ∨ s.reader = some ctx then .ok { s with reader := some ctx } else .error .secondFeedIssuer
  | .ser ctx true _ _ =>
    if s.writer = none ∨ s.writer = some ctx then .ok { s with writer := some ctx } else .error .secondWriter
  | _ => .ok s

/-- The transaction that admitted port values select (R80). -/
def select (r : Request) (s : State) : Except Refusal (Instr × State) :=
  match decode (sampleOf r s) with
  | .ok i => .ok (i, s)
  | .error e => .error (.noRow e)

/-- A request is admitted and its transaction selected. -/
def take (r : Request) (s : State) : Except Refusal (Instr × State) :=
  match checkIssuer r s with
  | .ok s' => select r s'
  | .error e => .error e

/-- The next port values, taken from the queue. With none placed the ports rest at 0: an IDLE of the parser (R80; log 3). -/
def fetch (s : State) : Except Refusal (Instr × State) :=
  match s.inputs with
  | [] => take .rxIdle s
  | r :: rest => take r { s with inputs := rest }

/-- The parser's part of a FEED key is put into the parser (log 14). For the DATA rows the packet is also given a LENGTH
and the counter a value at which a payload byte is due, unless they already are. -/
def placeParser (P : ParserState) (fault : Bool) (st : ParseStep) : ParserState :=
  { P with
    fault := fault
    step := st
    cnt := if st = .data && !fault && !(lengthOk P.pkt.length && payloadOpen P) then 0#8 else P.cnt
    pkt := if st = .data && !fault && !(lengthOk P.pkt.length && payloadOpen P) then { P.pkt with length := 7#8 } else P.pkt }

/-- The port values `r` come first in the queue. -/
def placeRequest (s : State) (r : Request) : State := { s with inputs := r :: s.inputs }

/-- The state in which the next step runs the instruction the decoder read from a word: the key's state bits in `P` and `S`,
its port bits at the head of the queue, driven by the context that already holds the port, if one does (log 14). -/
def placeInstr (s : State) (i : Instr) : State :=
  let feed (fault : Bool) (st : ParseStep) (v : Byte) : State :=
    placeRequest { s with P := placeParser s.P fault st } (.rx (s.reader.getD 0) v)
  let ser (busy serValid : Bool) (pkt : Packet) (txReady : Bool) : State :=
    placeRequest { s with S := { s.S with busy := busy } } (.ser (s.writer.getD 0) serValid pkt txReady)
  match i with
  | .feedFaulted st v => feed true st v
  | .feedIllegalStep st v => feed false st v
  | .feedStxAccept => feed false .stx Config.marker
  | .feedStxDiscard v => feed false .stx v
  | .feedId v => feed false .id v
  | .feedLengthInvalid v => feed false .length v
  | .feedLength v => feed false .length v
  | .feedCommand v => feed false .command v
  | .feedSequence v => feed false .sequence v
  | .feedDataStore v => feed false .data v
  | .feedDataChkOk v => feed false .data v
  | .feedDataChkBad v => feed false .data v
  | .idle => placeRequest s .rxIdle
  | .serStart txReady pkt => ser false true pkt txReady
  | .serStartInvalid txReady pkt => ser false true pkt txReady
  | .serIdle txReady => ser false false zeroPkt txReady
  | .serEmit serValid => ser true serValid zeroPkt true
  | .serWait serValid => ser true serValid zeroPkt false
  | .build b => placeRequest s (.build b)
  | .buildInvalid b => placeRequest s (.build b)
  | .reset => placeRequest s .rst

end Sys2Proof.Machine
end

