-- ==== Sys2Proof/Machine/Step.lean ====
section
/-! DEFINITION. The step: one transaction of one agent (spec/00_scope.md R10). -/

namespace Sys2Proof.Machine

/-- One transaction: the next port values are fetched and their transaction runs. -/
def step (s : State) : Host.Outcome State Fault Refusal :=
  match fetch s with
  | .ok (i, s') => exec i s'
  | .error r => .refused r

/-- `s` with the instruction of an opcode-table word placed so that the very next step runs it (log 14). -/
def State.withFetchWord (s : State) (nbits w : Nat) : State :=
  match decodeTableWord nbits w with
  | some i => placeInstr s i
  | none => s

end Sys2Proof.Machine
end

