-- ==== Sys2Proof/Machine/Block.lean ====
section
/-! DEFINITION. The whole block at once: all input ports of spec/30_encoding.md R79 at one step, and the transactions R80
selects from them, run as separate steps of the agents (R80 allows it; log 1). -/

namespace Sys2Proof.Machine

/-- The block's input ports (R79). -/
structure Pins where
  rst : Bool
  rxValid : Bool
  rxByte : Byte
  serValid : Bool
  serPkt : Packet
  txReady : Bool
  b : BuilderIn
deriving DecidableEq, Repr

/-- The agents' transactions at one step of the block (R80): RESET pre-empts the parser's and the serializer's
(70_reset_and_hazards.md R241); the builder is evaluated at every step. `reader` and `writer` drive the ports. -/
def Pins.requests (p : Pins) (reader writer : Nat) : List Request :=
  if p.rst then [.rst, .build p.b]
  else [if p.rxValid then .rx reader p.rxByte else .rxIdle, .ser writer p.serValid p.serPkt p.txReady, .build p.b]

/-- The state with port values placed before what its queue holds. -/
def State.drive (s : State) (rs : List Request) : State := { s with inputs := rs ++ s.inputs }

/-- The transactions of the given port values, one after another. -/
def runRequests (rs : List Request) (s : State) : Outcome := Host.Core.run Sys2Proof.core rs.length (s.drive rs)

/-- One step of the whole block. -/
def blockStep (p : Pins) (reader writer : Nat) (s : State) : Outcome := runRequests (p.requests reader writer) s

/-- One step of the whole block with the serializer's transaction before the parser's (R80 "in either order"). -/
def blockStepSerFirst (p : Pins) (reader writer : Nat) (s : State) : Outcome :=
  runRequests
    (if p.rst then [.rst, .build p.b]
     else [.ser writer p.serValid p.serPkt p.txReady, if p.rxValid then .rx reader p.rxByte else .rxIdle, .build p.b]) s

end Sys2Proof.Machine
end

