-- ==== Sys2Proof/Machine/Program.lean ====
section
/-! DEFINITION. The assembler lines and the pseudo-instructions (spec/30_encoding.md R84, R85), each expanded into the port
values that the run's queue holds. The port values a line's text does not give are the model's choice (log 19): context 0
drives every port, and a port a serializer line does not name is 0. -/

namespace Sys2Proof.Machine

/-- A line of a program (R84) or a pseudo-instruction (R85). -/
inductive Line where
  | reset
  | feed (v : Byte)
  | idle
  | ser (pkt : Packet)
  | emit
  | wait
  | build (id command sequence : Byte) (data : List Byte)
  | feeds (vs : List Byte)
  | frame (id command sequence : Byte) (data : List Byte)
  | send (pkt : Packet)
  | sendBuilt (id command sequence : Byte) (data : List Byte)
deriving DecidableEq, Repr

/-- The builder's inputs with the listed data bytes: `b_n` is their number, 0 to 256 (R79, R84). -/
def builderInputs (id command sequence : Byte) (data : List Byte) : BuilderIn :=
  { id := id, command := command, sequence := sequence, n := BitVec.ofNat 9 data.length, data := storeList [] 0 data }

/-- The builder's inputs can be presented: at most 256 data bytes (R79). -/
def presentable (data : List Byte) : Bool := decide (data.length ≤ Config.payloadCap)

/-- `SER` (R84): a serializer step with `ser_valid = 1` and `ser_pkt`. R84 gives no `tx_ready`; DESIGN CHOICE (log 19): it is
0, so a `SER` line met while `S.busy = 1` is one SER.WAIT, and its request is not taken and not held for a later step. -/
def serLine (pkt : Packet) : Request := .ser 0 true pkt false

/-- `EMIT` (R84): a serializer step with `tx_ready = 1`. `ser_valid` is 0 (DESIGN CHOICE, log 19). -/
def emitLine : Request := .ser 0 false zeroPkt true

/-- `WAIT` (R84): a serializer step with `tx_ready = 0`. `ser_valid` is 0 (DESIGN CHOICE, log 19). -/
def waitLine : Request := .ser 0 false zeroPkt false

/-- `SEND p` (R85): `SER p`, then `EMIT` repeated `p.length` times. -/
def sendLines (pkt : Packet) : List Request := serLine pkt :: List.replicate pkt.length.toNat emitLine

/-- A line's expansion; none where it is refused at assembly (R85). -/
def Line.expand : Line → Option (List Request)
  | .reset => some [.rst]
  | .feed v => some [.rx 0 v]
  | .idle => some [.rxIdle]
  | .ser pkt => some [serLine pkt]
  | .emit => some [emitLine]
  | .wait => some [waitLine]
  | .build id c q d => if presentable d then some [.build (builderInputs id c q d)] else none
  | .feeds vs => some (vs.map (.rx 0))
  | .frame id c q d =>
    if presentable d && buildFits (builderInputs id c q d).n then
      some ((serBytes (buildPkt (builderInputs id c q d))).map (.rx 0))
    else none
  | .send pkt => some (sendLines pkt)
  | .sendBuilt id c q d =>
    if presentable d then
      some (.build (builderInputs id c q d) :: sendLines (builderPkt (builderInputs id c q d)))
    else none

/-- A program's port values, its lines in order (R84); none if a line is refused. -/
def assemble : List Line → Option (List Request)
  | [] => some []
  | l :: ls =>
    match l.expand, assemble ls with
    | some rs, some rest => some (rs ++ rest)
    | _, _ => none

end Sys2Proof.Machine
end

