-- ==== Sys2Proof/Machine/Transport.lean ====
section
/-! DEFINITION. The Transport as the block's byte source and sink (spec/60_exceptions.md R205, R206, R215 to R218): discover,
open, read_byte and write_byte, the port values that the reader's and the writer's loops make of them, and the boot order
(70_reset_and_hazards.md R245). It is no state of the block (00_scope.md R4, 10_state.md R40; log 18). -/

namespace Sys2Proof.Machine

/-- The Transport's errors (60_exceptions.md R200, R205, R206). The block sees none of them. -/
inductive TransportError where
  /-- of `open`, fatal to the Transport -/
  | portUnavailable
  /-- of `read_byte` and `write_byte`, fatal to the Transport -/
  | ioError
  /-- inside `read_byte`, never surfaced -/
  | timeout
deriving DecidableEq, Repr

/-- The errors that reach the Transport's caller (R200 "surfaced", R206). -/
def TransportError.surfaced : TransportError → Bool
  | .portUnavailable | .ioError => true
  | .timeout => false

/-- A device as the host enumerates it: its port identifier, whether it is serial-capable, whether it can be opened. -/
structure Device where
  port : Nat
  serial : Bool
  opens : Bool
deriving DecidableEq, Repr

/-- `discover()` (R217): the serial-capable devices' port identifiers; other kinds are skipped silently, and an empty answer
is no error. -/
def discover (devices : List Device) : List Nat := (devices.filter (·.serial)).map (·.port)

/-- An opened connection: the only state a Transport has (R217, R218). -/
structure Connection where
  port : Nat
  baud : Nat
deriving DecidableEq, Repr

/-- `open(port_identifier, baud_rate)` (R217). -/
def openPort (devices : List Device) (port baud : Nat) : Except TransportError Connection :=
  if devices.any (fun d => decide (d.port = port) && d.opens) then .ok { port := port, baud := baud }
  else .error .portUnavailable

/-- The boot order (70_reset_and_hazards.md R245): `rst` for one step, then the loops' port values; nothing at all where
`open` failed (R218). -/
def bootRequests : Except TransportError Connection → List Request → List Request
  | .ok _, loops => .rst :: loops
  | .error _, _ => []

/-- What the device side of `read_byte` does next. -/
inductive DeviceEvent where
  | timeout
  | byte (v : Byte)
  | ioError
deriving DecidableEq, Repr

/-- What `read_byte` gives its caller: a byte, a fatal error, or nothing yet (R215, R259: the wait has no bound). -/
inductive ReadResult where
  | byte (v : Byte)
  | ioError
  | waiting
deriving DecidableEq, Repr

/-- `read_byte` (R215): timeouts are retried inside and never reach the caller. The rest of the events is left. -/
def readByte : List DeviceEvent → ReadResult × List DeviceEvent
  | [] => (.waiting, [])
  | .timeout :: es => readByte es
  | .byte v :: es => (.byte v, es)
  | .ioError :: es => (.ioError, es)

/-- The reader context's port values (R215): a FEED for each byte, an IDLE for each timeout the Transport hides
(40_parser.md R113), none after a fatal error (R205). -/
def readerLoop (ctx : Nat) : List DeviceEvent → List Request
  | [] => []
  | .timeout :: es => .rxIdle :: readerLoop ctx es
  | .byte v :: es => .rx ctx v :: readerLoop ctx es
  | .ioError :: _ => []

/-- The bytes `read_byte` returns, call after call, until a fatal error (R205, R215). -/
def deliveredBytes : List DeviceEvent → List Byte
  | [] => []
  | .timeout :: es => deliveredBytes es
  | .byte v :: es => v :: deliveredBytes es
  | .ioError :: _ => []

/-- What the device side of `write_byte` does next. -/
inductive SinkEvent where
  | blocked
  | accepted
  | ioError
deriving DecidableEq, Repr

/-- What `write_byte` gives its caller (R216, R259). -/
inductive WriteResult where
  | accepted
  | ioError
  | waiting
deriving DecidableEq, Repr

/-- `write_byte` (R216): it blocks until the byte is accepted or an I/O error occurs. The rest of the events is left. -/
def writeByte : List SinkEvent → WriteResult × List SinkEvent
  | [] => (.waiting, [])
  | .blocked :: es => writeByte es
  | .accepted :: es => (.accepted, es)
  | .ioError :: es => (.ioError, es)

/-- The Transport's `tx_ready` while a frame is sent (R216): 1 when `write_byte` accepted the byte, 0 while it blocks, no
step after a fatal error (R205). -/
def sinkLoop (ctx : Nat) : List SinkEvent → List Request
  | [] => []
  | .blocked :: es => .ser ctx false zeroPkt false :: sinkLoop ctx es
  | .accepted :: es => .ser ctx false zeroPkt true :: sinkLoop ctx es
  | .ioError :: _ => []

/-- The bytes handed to `write_byte` in a run's record, oldest first (R224). -/
def wireBytes (trace : List Obs) : List Byte :=
  trace.reverse.filterMap fun o =>
    match o with
    | .serializer _ w _ => w
    | .parser _ _ _ _ => none
    | .builder _ _ _ => none
    | .reset => none

/-- The packets emitted in a run's record, oldest first (R224). -/
def emittedPackets (trace : List Obs) : List Packet :=
  trace.reverse.filterMap fun o =>
    match o with
    | .parser _ p _ _ => p
    | .serializer _ _ _ => none
    | .builder _ _ _ => none
    | .reset => none

end Sys2Proof.Machine
end

