-- ==== Sys2Proof/Safety.lean ====
section
/-! DEFINITION. What a safe run is, in the terms the statements use: the reachable-state invariant of the parser
(spec/40_parser.md R115), the serializer's, the emitted packet's, the canonical form of the stores, the confinement to one
reader and one writer (spec/20_memory.md R63), and a faulted run (spec/60_exceptions.md R224). -/

namespace Sys2Proof.Machine

/-- Every cell from index `k` up holds 0. -/
abbrev ZeroFrom (m : Memory) (k : Nat) : Prop := ∀ i < Config.payloadCap, k ≤ i → memRead m i = 0#8

/-- The invariant of R115, (a) to (f), the payload's emptiness in COMMAND and SEQUENCE added (it is what carries (f)). -/
abbrev ParserInv (P : ParserState) : Prop :=
  P.fault = false ∧
    match P.step with
    | .stx => P.pkt = zeroPkt ∧ P.cnt = 0#8
    | .id => P.cnt = 0#8 ∧ P.pkt = { zeroPkt with stx := Config.marker }
    | .length => P.cnt = 0#8 ∧ P.pkt = { zeroPkt with stx := Config.marker, id := P.pkt.id }
    | .command => P.cnt = 0#8 ∧ WellFormedPacket P.pkt ∧ P.pkt.payload = []
    | .sequence => P.cnt = 0#8 ∧ WellFormedPacket P.pkt ∧ P.pkt.payload = []
    | .data => P.cnt.toNat ≤ payloadSize P.pkt ∧ WellFormedPacket P.pkt ∧ ZeroFrom P.pkt.payload P.cnt.toNat
    | .illegal6 => False
    | .illegal7 => False

/-- `P.out` is ZERO_PKT or a valid packet whose payload is 0 at and above `n` (10_state.md R24, R26). -/
abbrev EmittedInv (p : Packet) : Prop := p = zeroPkt ∨ (ValidPacket p ∧ ZeroFrom p.payload (payloadSize p))

/-- While a frame is sent, its packet has a legal length and the index is inside the frame; an idle serializer's index is 0;
CHECKSUM_MISMATCH is never its status (10_state.md R36; 42_serializer.md R180; 30_encoding.md R77). -/
abbrev SerializerInv (S : SerializerState) : Prop :=
  (S.busy = true → lengthOk S.buf.length = true ∧ S.idx.toNat < S.buf.length.toNat) ∧
    (S.busy = false → S.idx = 0#8) ∧ S.status ≠ .checksumMismatch

/-- A request's operand stores are in canonical form. -/
def Request.wf : Request → Bool
  | .rst => true
  | .rx _ _ => true
  | .rxIdle => true
  | .ser _ _ pkt _ => Memory.wf pkt.payload
  | .build b => Memory.wf b.data

/-- Every store of the state, and of the port values to come, is in canonical form. -/
abbrev StoresWf (s : State) : Prop :=
  Memory.wf s.P.pkt.payload = true ∧ Memory.wf s.P.out.payload = true ∧ Memory.wf s.S.buf.payload = true ∧
    Memory.wf s.B.data = true ∧ ∀ r ∈ s.inputs, r.wf = true

/-- The invariant of the whole block. -/
structure BlockInv (s : State) : Prop where
  parser : ParserInv s.P
  emitted : EmittedInv s.P.out
  serializer : SerializerInv s.S
  stores : StoresWf s

/-- The context a request drives the FEED port from, if it does. -/
def Request.feeds : Request → Option Nat
  | .rx ctx _ => some ctx
  | _ => none

/-- The context a request drives `ser_valid` from, if it does. -/
def Request.writes : Request → Option Nat
  | .ser ctx true _ _ => some ctx
  | _ => none

/-- The host keeps its duty (20_memory.md R63): all FEEDs come from context `r` and all serialize requests from `w`. -/
abbrev Confined (r w : Nat) (s : State) : Prop :=
  (s.reader = none ∨ s.reader = some r) ∧ (s.writer = none ∨ s.writer = some w) ∧
    ∀ q ∈ s.inputs, (q.feeds = none ∨ q.feeds = some r) ∧ (q.writes = none ∨ q.writes = some w)

/-- `fault` was 1 at this entry of the record. -/
def Obs.showsFault : Obs → Bool
  | .parser _ _ fault _ => fault
  | .serializer _ _ _ => false
  | .builder _ _ _ => false
  | .reset => false

/-- The run is faulted: `fault` was 1 at some step (60_exceptions.md R224; 70_reset_and_hazards.md R243). -/
def State.faulted (s : State) : Bool := s.trace.any Obs.showsFault

/-- A good run so far: the invariant holds and no step showed a fault. -/
structure GoodRun (s : State) : Prop where
  inv : BlockInv s
  notFaulted : s.faulted = false

/-- A FEED's transaction. -/
def isFeed : Instr → Bool
  | .feedFaulted _ _ | .feedIllegalStep _ _ | .feedStxAccept | .feedStxDiscard _ | .feedId _ | .feedLengthInvalid _
  | .feedLength _ | .feedCommand _ | .feedSequence _ | .feedDataStore _ | .feedDataChkOk _ | .feedDataChkBad _ => true
  | .idle | .serStart _ _ | .serStartInvalid _ _ | .serIdle _ | .serEmit _ | .serWait _ | .build _ | .buildInvalid _
  | .reset => false

/-- A serializer transaction other than RESET. -/
def isSer : Instr → Bool
  | .serStart _ _ | .serStartInvalid _ _ | .serIdle _ | .serEmit _ | .serWait _ => true
  | .feedFaulted _ _ | .feedIllegalStep _ _ | .feedStxAccept | .feedStxDiscard _ | .feedId _ | .feedLengthInvalid _
  | .feedLength _ | .feedCommand _ | .feedSequence _ | .feedDataStore _ | .feedDataChkOk _ | .feedDataChkBad _ | .idle
  | .build _ | .buildInvalid _ | .reset => false

/-- A builder evaluation. -/
def isBuild : Instr → Bool
  | .build _ | .buildInvalid _ => true
  | .feedFaulted _ _ | .feedIllegalStep _ _ | .feedStxAccept | .feedStxDiscard _ | .feedId _ | .feedLengthInvalid _
  | .feedLength _ | .feedCommand _ | .feedSequence _ | .feedDataStore _ | .feedDataChkOk _ | .feedDataChkBad _ | .idle
  | .serStart _ _ | .serStartInvalid _ _ | .serIdle _ | .serEmit _ | .serWait _ | .reset => false

/-- Nothing but the parser and the record changed. -/
abbrev KeepsAllButParser (s t : State) : Prop :=
  t.S = s.S ∧ t.B = s.B ∧ t.inputs = s.inputs ∧ t.reader = s.reader ∧ t.writer = s.writer

/-- Nothing but the serializer and the record changed. -/
abbrev KeepsAllButSerializer (s t : State) : Prop :=
  t.P = s.P ∧ t.B = s.B ∧ t.inputs = s.inputs ∧ t.reader = s.reader ∧ t.writer = s.writer

/-- Nothing but the builder's inputs and the record changed. -/
abbrev KeepsAllButBuilder (s t : State) : Prop :=
  t.P = s.P ∧ t.S = s.S ∧ t.inputs = s.inputs ∧ t.reader = s.reader ∧ t.writer = s.writer

/-- The transactions that return the parser to STX with its packet cleared (40_parser.md R105, R109, R110; 70 R240). -/
def returnsToStx : Instr → Bool
  | .feedLengthInvalid _ | .feedDataChkOk _ | .feedDataChkBad _ | .reset => true
  | .feedFaulted _ _ | .feedIllegalStep _ _ | .feedStxAccept | .feedStxDiscard _ | .feedId _ | .feedLength _
  | .feedCommand _ | .feedSequence _ | .feedDataStore _ | .idle | .serStart _ _ | .serStartInvalid _ _ | .serIdle _
  | .serEmit _ | .serWait _ | .build _ | .buildInvalid _ => false

/-- The running accumulator an implementation may keep instead of computing CHKP at the checksum byte (41_checksum.md R154):
its next value at a transaction. It is no state of the block. -/
def accNext (acc : Byte) : Instr → Byte
  | .feedId v => chkStep Config.marker v
  | .feedLength v | .feedCommand v | .feedSequence v | .feedDataStore v => chkStep acc v
  | .feedLengthInvalid _ | .feedDataChkOk _ | .feedDataChkBad _ | .reset => 0#8
  | .feedFaulted _ _ | .feedIllegalStep _ _ | .feedStxAccept | .feedStxDiscard _ | .idle | .serStart _ _
  | .serStartInvalid _ _ | .serIdle _ | .serEmit _ | .serWait _ | .build _ | .buildInvalid _ => acc

/-- The accumulator holds CHK of the body bytes the parser has recorded. -/
abbrev AccMatches (P : ParserState) (acc : Byte) : Prop :=
  match P.step with
  | .length => acc = chk [P.pkt.id]
  | .command => acc = chk [P.pkt.id, P.pkt.length]
  | .sequence => acc = chk [P.pkt.id, P.pkt.length, P.pkt.command]
  | .data =>
    acc = chk (P.pkt.id :: P.pkt.length :: P.pkt.command :: P.pkt.sequence :: payloadBytes P.pkt.payload P.cnt.toNat)
  | .stx => True
  | .id => True
  | .illegal6 => True
  | .illegal7 => True

/-- The number of FEEDs among port values. -/
def feedCount : List Request → Nat
  | [] => 0
  | .rx _ _ :: rs => feedCount rs + 1
  | .rst :: rs => feedCount rs
  | .rxIdle :: rs => feedCount rs
  | .ser _ _ _ _ :: rs => feedCount rs
  | .build _ :: rs => feedCount rs

end Sys2Proof.Machine
end

