-- ==== Sys2Proof/Certificates/Slice0/Obligations.lean ====
section
/-! DEFINITION. The statements for the provers. Each docstring names the rule or the section of spec/ it formalises. A
clause about `trace` speaks of the run's record, whose form is the model's own (log 8): it gives the event a rule raises, or
says that none is raised, and is cited to no rule. -/

open Sys2Proof Sys2Proof.Machine

/-! ### Reset and the step -/

/-- spec/10_state.md section 6 (reset values). The source fixes only `P.step = STX`; the other values are the spec's own
decisions D7, D8, D9, D10, D12 of 92_eei_decisions.md. -/
def Obligations.ResetStateHoldsResetValues : Prop :=
  State.reset.P.step = .stx ∧ State.reset.P.cnt = 0#8 ∧ State.reset.P.pkt = zeroPkt ∧ State.reset.P.out = zeroPkt ∧
    State.reset.P.status = .none ∧ State.reset.P.fault = false ∧
    State.reset.S.busy = false ∧ State.reset.S.idx = 0#8 ∧ State.reset.S.buf = zeroPkt ∧
    State.reset.S.status = .none ∧
    (∀ a, memRead State.reset.P.pkt.payload a = 0#8 ∧ memRead State.reset.P.out.payload a = 0#8 ∧
      memRead State.reset.S.buf.payload a = 0#8)

/-- RESET, spec/70_reset_and_hazards.md section 1 (its values are decision D7): from every state both agents take their reset
values, the builder's inputs, the queue and the confinement are kept, and the record grows by one entry. -/
def Obligations.ResetRestoresBothAgents : Prop :=
  ∀ s : State, decode (sampleOf .rst s) = .ok .reset ∧
    ∃ t, exec .reset s = .next t ∧ t.P = State.reset.P ∧ t.S = State.reset.S ∧ t.B = s.B ∧ t.inputs = s.inputs ∧
      t.reader = s.reader ∧ t.writer = s.writer ∧ t.trace = .reset :: s.trace

/-- One step is one transaction (spec/00_scope.md section 4, spec/30_encoding.md section 3): the first port values of the
queue, admitted, select a transaction, and the step is that transaction on the state with those values taken. With nothing
placed the step is an IDLE (the model's choice, log 3). -/
def Obligations.StepRunsSelectedTransaction : Prop :=
  (∀ (s s' : State) (r : Request) (rest : List Request) (i : Instr),
      s.inputs = r :: rest → checkIssuer r { s with inputs := rest } = .ok s' → decode (sampleOf r s') = .ok i →
      step s = exec i s') ∧
    ∀ s : State, s.inputs = [] → step s = exec .idle s

/-- spec/30_encoding.md section 3 and 4: a transaction takes effect exactly in the states in which some port values select
it, and is refused by name in every other (the model's choice, log 5). -/
def Obligations.TransactionRunsExactlyWhereSelected : Prop :=
  ∀ (i : Instr) (s : State),
    ((∃ t, exec i s = .next t) ↔ ∃ r, decode (sampleOf r s) = .ok i) ∧
      ((¬ ∃ r, decode (sampleOf r s) = .ok i) → exec i s = .refused .notSelected)

/-! ### The parser -/

/-- R101, FEED.STX_ACCEPT. -/
def Obligations.StxAcceptRecordsMarker : Prop :=
  ∀ (s : State) (ctx : Nat), s.P.fault = false → s.P.step = .stx →
    feedKey s.P 0x02#8 = 0x002#12 ∧ decode (sampleOf (.rx ctx 0x02#8) s) = .ok .feedStxAccept ∧
      ∃ t, exec .feedStxAccept s = .next t ∧
        t.P = { s.P with pkt := { s.P.pkt with stx := 0x02#8 }, step := .id, status := .none } ∧
        (ParserInv s.P → t.P.cnt = 0#8) ∧
        t.trace = .parser .none none false none :: s.trace ∧ KeepsAllButParser s t

/-- R102, FEED.STX_DISCARD: only the status is written; FramingDesync stands in the record and nowhere else. -/
def Obligations.StxDiscardChangesOnlyStatus : Prop :=
  ∀ (s : State) (ctx : Nat) (v : Byte), s.P.fault = false → s.P.step = .stx → v ≠ 0x02#8 →
    decode (sampleOf (.rx ctx v) s) = .ok (.feedStxDiscard v) ∧
      ∃ t, exec (.feedStxDiscard v) s = .next t ∧ t.P = { s.P with status := .none } ∧ t.P.step = .stx ∧
        t.trace = .parser .none none false (some .framingDesync) :: s.trace ∧ KeepsAllButParser s t

/-- R103, R106 and R107: FEED.ID, FEED.COMMAND and FEED.SEQUENCE record the byte, whatever it is, and go on. -/
def Obligations.HeaderFieldsRecordAnyByte : Prop :=
  ∀ (s : State) (ctx : Nat) (v : Byte), s.P.fault = false →
    (s.P.step = .id → decode (sampleOf (.rx ctx v) s) = .ok (.feedId v) ∧
      ∃ t, exec (.feedId v) s = .next t ∧
        t.P = { s.P with pkt := { s.P.pkt with id := v }, step := .length, status := .none } ∧
        t.trace = .parser .none none false none :: s.trace ∧ KeepsAllButParser s t) ∧
    (s.P.step = .command → decode (sampleOf (.rx ctx v) s) = .ok (.feedCommand v) ∧
      ∃ t, exec (.feedCommand v) s = .next t ∧
        t.P = { s.P with pkt := { s.P.pkt with command := v }, step := .sequence, status := .none } ∧
        t.trace = .parser .none none false none :: s.trace ∧ KeepsAllButParser s t) ∧
    (s.P.step = .sequence → decode (sampleOf (.rx ctx v) s) = .ok (.feedSequence v) ∧
      ∃ t, exec (.feedSequence v) s = .next t ∧
        t.P = { s.P with pkt := { s.P.pkt with sequence := v }, step := .data, status := .none } ∧
        (s.P.pkt.length = 6#8 → payloadOpen t.P = false) ∧
        t.trace = .parser .none none false none :: s.trace ∧ KeepsAllButParser s t)

/-- R104, FEED.LENGTH: a LENGTH of 6 or more is recorded and the payload counter cleared. -/
def Obligations.LengthRecordedAndCounterCleared : Prop :=
  ∀ (s : State) (ctx : Nat) (v : Byte), s.P.fault = false → s.P.step = .length → 6 ≤ v.toNat →
    decode (sampleOf (.rx ctx v) s) = .ok (.feedLength v) ∧
      ∃ t, exec (.feedLength v) s = .next t ∧
        t.P = { s.P with pkt := { s.P.pkt with length := v }, cnt := 0#8, step := .command, status := .none } ∧
        t.trace = .parser .none none false none :: s.trace ∧ KeepsAllButParser s t

/-- spec/40_parser.md section 1, FEED.LENGTH_INVALID (where the check stands is decision D6): a LENGTH below 6 is consumed,
InvalidFrame is reported, the frame is discarded, the emitted packet is kept. -/
def Obligations.LengthBelowSixRecovers : Prop :=
  ∀ (s : State) (ctx : Nat) (v : Byte), s.P.fault = false → s.P.step = .length → v.toNat < 6 →
    decode (sampleOf (.rx ctx v) s) = .ok (.feedLengthInvalid v) ∧
      ∃ t, exec (.feedLengthInvalid v) s = .next t ∧
        t.P = { s.P with pkt := zeroPkt, cnt := 0#8, step := .stx, status := .invalidFrame } ∧
        t.trace = .parser .invalidFrame none false (some (.invalidFrameParse v)) :: s.trace ∧ KeepsAllButParser s t

/-- spec/40_parser.md section 1 and decision D5: with every capacity of 249 or more the length check is `v < 6` alone. -/
def Obligations.LengthCheckIgnoresCapacity : Prop :=
  ∀ (cap : Nat) (v : Byte), 249 ≤ cap → (lengthRejected cap v = true ↔ v.toNat < 6)

/-- R108, FEED.DATA_STORE: the byte goes to cell `P.cnt` and to no other, the counter moves on without wrapping. -/
def Obligations.DataStoreWritesOneCell : Prop :=
  ∀ (s : State) (ctx : Nat) (v : Byte), s.P.fault = false → s.P.step = .data → 6 ≤ s.P.pkt.length.toNat →
    s.P.cnt.toNat < s.P.pkt.length.toNat - 6 →
    decode (sampleOf (.rx ctx v) s) = .ok (.feedDataStore v) ∧
      ∃ t, exec (.feedDataStore v) s = .next t ∧
        t.P = { s.P with pkt := { s.P.pkt with payload := t.P.pkt.payload }, cnt := s.P.cnt + 1#8, status := .none } ∧
        t.P.cnt.toNat = s.P.cnt.toNat + 1 ∧
        (Memory.wf s.P.pkt.payload = true → ∀ a, memRead t.P.pkt.payload a =
          if a = s.P.cnt.toNat then v else memRead s.P.pkt.payload a) ∧
        t.trace = .parser .none none false none :: s.trace ∧ KeepsAllButParser s t

/-- R109, FEED.DATA_CHK_OK: the packet with its checksum recorded is emitted, and the parser returns to STX. The recorded
`stx` plays no part in the validation. Where the parser's invariant holds, all the payload has come, and the emitted
payload is 0 at and above its size. -/
def Obligations.GoodChecksumEmitsPacket : Prop :=
  ∀ (s : State) (ctx : Nat) (v : Byte), s.P.fault = false → s.P.step = .data → 6 ≤ s.P.pkt.length.toNat →
    s.P.pkt.length.toNat - 6 ≤ s.P.cnt.toNat → v = chkp s.P.pkt →
    decode (sampleOf (.rx ctx v) s) = .ok (.feedDataChkOk v) ∧
      ∃ t, exec (.feedDataChkOk v) s = .next t ∧
        t.P = { s.P with pkt := zeroPkt, cnt := 0#8, step := .stx, status := .packet,
                         out := { s.P.pkt with checksum := v } } ∧
        t.pktValid = true ∧ t.feedResult = some { s.P.pkt with checksum := v } ∧
        (∀ x, v = chkp { s.P.pkt with stx := x }) ∧
        (ParserInv s.P → s.P.cnt.toNat = payloadSize s.P.pkt ∧ ZeroFrom t.P.out.payload (payloadSize t.P.out)) ∧
        t.trace = .parser .packet (some { s.P.pkt with checksum := v }) false none :: s.trace ∧ KeepsAllButParser s t

/-- R110, FEED.DATA_CHK_BAD: ChecksumMismatch is reported, the frame discarded, the emitted packet kept. -/
def Obligations.BadChecksumDiscardsFrame : Prop :=
  ∀ (s : State) (ctx : Nat) (v : Byte), s.P.fault = false → s.P.step = .data → 6 ≤ s.P.pkt.length.toNat →
    s.P.pkt.length.toNat - 6 ≤ s.P.cnt.toNat → v ≠ chkp s.P.pkt →
    decode (sampleOf (.rx ctx v) s) = .ok (.feedDataChkBad v) ∧
      ∃ t, exec (.feedDataChkBad v) s = .next t ∧
        t.P = { s.P with pkt := zeroPkt, cnt := 0#8, step := .stx, status := .checksumMismatch } ∧
        t.feedResult = none ∧
        t.trace = .parser .checksumMismatch none false (some (.checksumMismatch v (chkp s.P.pkt))) :: s.trace ∧
        KeepsAllButParser s t

/-- spec/40_parser.md section 1, FEED.ILLEGAL_STEP (decision D10): on a step code `110` or `111` a FEED sets `P.fault`, the
run is recorded as faulted, and nothing else changes. -/
def Obligations.IllegalStepSetsFault : Prop :=
  ∀ (s : State) (ctx : Nat) (v : Byte), s.P.fault = false → (s.P.step.code = 0b110#3 ∨ s.P.step.code = 0b111#3) →
    decode (sampleOf (.rx ctx v) s) = .ok (.feedIllegalStep s.P.step v) ∧
      ∃ t, exec (.feedIllegalStep s.P.step v) s = .next t ∧ t.P = { s.P with fault := true, status := .none } ∧
        t.faulted = true ∧
        t.trace = .parser .none none true (some (.internalError s.P.step)) :: s.trace ∧ KeepsAllButParser s t

/-- spec/40_parser.md section 1, FEED.FAULTED (decision D10): while `P.fault = 1` a FEED of any byte in any step writes
NONE and nothing else. -/
def Obligations.FaultedParserIgnoresBytes : Prop :=
  ∀ (s : State) (ctx : Nat) (v : Byte), s.P.fault = true →
    decode (sampleOf (.rx ctx v) s) = .ok (.feedFaulted s.P.step v) ∧
      ∃ t, exec (.feedFaulted s.P.step v) s = .next t ∧ t.P = { s.P with status := .none } ∧
        t.trace = .parser .none none true none :: s.trace ∧ KeepsAllButParser s t

/-- spec/40_parser.md section 1, IDLE (decision D1): from every state, inside a frame or not, only the status is written. -/
def Obligations.IdleHoldsParserState : Prop :=
  ∀ s : State, decode (sampleOf .rxIdle s) = .ok .idle ∧
    ∃ t, exec .idle s = .next t ∧ t.P = { s.P with status := .none } ∧
      t.trace = .parser .none none s.P.fault none :: s.trace ∧ KeepsAllButParser s t

/-! ### The serializer and the builder -/

/-- R177, SER.START: the packet is latched and accepted, and its first byte is on `tx_byte` from the next step. -/
def Obligations.SerStartLatchesPacket : Prop :=
  ∀ (s : State) (ctx : Nat) (rdy : Bool) (p : Packet), s.S.busy = false → 6 ≤ p.length.toNat →
    decode (sampleOf (.ser ctx true p rdy) s) = .ok (.serStart rdy p) ∧
      ∃ t, exec (.serStart rdy p) s = .next t ∧
        t.S = { busy := true, idx := 0#8, buf := p, status := .accepted } ∧ t.serReady = false ∧ t.txByte = p.stx ∧
        t.trace = .serializer .accepted none none :: s.trace ∧ KeepsAllButSerializer s t

/-- R171 and SER.START_INVALID: a packet with `length < 6` gives no bytes, InvalidFrame, and starts nothing. -/
def Obligations.ShortPacketIsNotSerialized : Prop :=
  ∀ (s : State) (ctx : Nat) (rdy : Bool) (p : Packet), s.S.busy = false → p.length.toNat < 6 →
    serialize p = none ∧ decode (sampleOf (.ser ctx true p rdy) s) = .ok (.serStartInvalid rdy p) ∧
      ∃ t, exec (.serStartInvalid rdy p) s = .next t ∧ t.S = { s.S with status := .invalidFrame } ∧
        t.serReady = true ∧ offered t.S = none ∧
        t.trace = .serializer .invalidFrame none (some (.invalidFrameSerialize p.length)) :: s.trace ∧
        KeepsAllButSerializer s t

/-- R179 and R181: SER.IDLE and SER.WAIT write only the status; the byte on offer stays. -/
def Obligations.SerIdleAndWaitHoldState : Prop :=
  ∀ (s : State) (ctx : Nat) (x : Bool) (p : Packet),
    (s.S.busy = false → decode (sampleOf (.ser ctx false p x) s) = .ok (.serIdle x) ∧
      ∃ t, exec (.serIdle x) s = .next t ∧ t.S = { s.S with status := .none } ∧ t.txValid = false ∧
        t.trace = .serializer .none none none :: s.trace ∧ KeepsAllButSerializer s t) ∧
    (s.S.busy = true → decode (sampleOf (.ser ctx x p false) s) = .ok (.serWait x) ∧
      ∃ t, exec (.serWait x) s = .next t ∧ t.S = { s.S with status := .none } ∧ offered t.S = offered s.S ∧
        t.trace = .serializer .none none none :: s.trace ∧ KeepsAllButSerializer s t)

/-- R180, SER.EMIT: the byte `SER(S.buf)[S.idx]` is handed over; the index moves on, or the frame ends at its last byte. In
every busy state the transaction completes; a request raised in the step is not taken. -/
def Obligations.SerEmitHandsOverOneByte : Prop :=
  ∀ (s : State) (ctx : Nat) (x : Bool) (p : Packet), s.S.busy = true →
    decode (sampleOf (.ser ctx x p true) s) = .ok (.serEmit x) ∧
      ∃ t, exec (.serEmit x) s = .next t ∧ t.S.buf = s.S.buf ∧ t.S.status = .none ∧ KeepsAllButSerializer s t ∧
        (6 ≤ s.S.buf.length.toNat → s.S.idx.toNat < s.S.buf.length.toNat →
          (∃ b, (serBytes s.S.buf)[s.S.idx.toNat]? = some b ∧
            t.trace = .serializer .none (some b) none :: s.trace) ∧
          (s.S.idx.toNat + 1 = s.S.buf.length.toNat → t.S.busy = false ∧ t.S.idx = 0#8 ∧ t.serReady = true) ∧
          (s.S.idx.toNat + 1 ≠ s.S.buf.length.toNat → t.S.busy = true ∧ t.S.idx.toNat = s.S.idx.toNat + 1))

/-- R170: the bytes of SER(p), offset by offset, and their number. -/
def Obligations.SerBytesByOffset : Prop :=
  ∀ p : Packet, 6 ≤ p.length.toNat →
    serialize p = some (serBytes p) ∧ (serBytes p).length = p.length.toNat ∧
      (serBytes p)[0]? = some p.stx ∧ (serBytes p)[1]? = some p.id ∧ (serBytes p)[2]? = some p.length ∧
      (serBytes p)[3]? = some p.command ∧ (serBytes p)[4]? = some p.sequence ∧
      (∀ i, 5 ≤ i → i + 2 ≤ p.length.toNat → (serBytes p)[i]? = some (memRead p.payload (i - 5))) ∧
      (serBytes p)[p.length.toNat - 1]? = some p.checksum

/-- spec/42_serializer.md section 1, BUILD (`stx`, `length`, `checksum` are decision D13): with `b_n <= 249` the builder
gives a valid packet of the inputs, its payload the first `b_n` data bytes and 0 above. -/
def Obligations.BuildGivesValidPacket : Prop :=
  ∀ (s : State) (b : BuilderIn), b.n.toNat ≤ 249 →
    decode (sampleOf (.build b) s) = .ok (.build b) ∧
      ∃ t, exec (.build b) s = .next t ∧ t.B = b ∧ t.bErr = false ∧ ValidPacket t.bPkt ∧
        t.bPkt.stx = 0x02#8 ∧ t.bPkt.id = b.id ∧ t.bPkt.length.toNat = 6 + b.n.toNat ∧ t.bPkt.command = b.command ∧
        t.bPkt.sequence = b.sequence ∧ t.bPkt.checksum = chkp t.bPkt ∧ Memory.wf t.bPkt.payload = true ∧
        (∀ a, memRead t.bPkt.payload a = if a < b.n.toNat then memRead b.data a else 0#8) ∧
        t.trace = .builder t.bPkt false none :: s.trace ∧ KeepsAllButBuilder s t

/-- spec/42_serializer.md section 1, BUILD.INVALID (decision D13): with `b_n >= 250` the builder gives ZERO_PKT and
`b_err = 1`, and the serializer does not start on what it gives. For `b_n` above 256 this is the model's reading (log 11). -/
def Obligations.OverlongBuildIsInvalid : Prop :=
  ∀ (s : State) (b : BuilderIn), 250 ≤ b.n.toNat →
    decode (sampleOf (.build b) s) = .ok (.buildInvalid b) ∧
      ∃ t, exec (.buildInvalid b) s = .next t ∧ t.B = b ∧ t.bErr = true ∧ t.bPkt = zeroPkt ∧
        t.trace = .builder zeroPkt true (some (.invalidFrameConstruct b.n)) :: s.trace ∧ KeepsAllButBuilder s t ∧
        ∀ (ctx : Nat) (rdy : Bool), t.S.busy = false →
          decode (sampleOf (.ser ctx true t.bPkt rdy) t) = .ok (.serStartInvalid rdy t.bPkt)

/-! ### Encodings -/

/-- spec/30_encoding.md sections 2 to 4: decoding the encoding of a well-formed transaction gives it back, for every
constructor and every operand. -/
def Obligations.DecodeOfEncodeIsIdentity : Prop :=
  ∀ i : Instr, WellFormed i = true → decode (encode i) = .ok i

/-- spec/30_encoding.md section 4 (the operation map): what a sample decodes to is a well-formed transaction in whose row of
spec/opcode_table.json the sample's key lies, and every FEED key with its DATA condition decodes. -/
def Obligations.DecodedKeyLiesInItsRow : Prop :=
  (∀ (x : Sample) (i : Instr), decode x = .ok i →
      i.row.hits x.key = true ∧
        ((∀ k p, x = .serializer k p → Memory.wf p.payload = true) → (∀ b, x = .builder b → Memory.wf b.data = true) →
          WellFormed i = true)) ∧
    ∀ (k : BitVec 12) (c : DataCond), ∃ i, decode (.feed k (some c)) = .ok i

/-- Words written out from the tables of spec/30_encoding.md (R76, R81, R82) and from the keys of spec/95_test_vectors.md. -/
def Obligations.SpecKeysDecodeToTheirRows : Prop :=
  decode (.feed 0x002#12 none) = .ok .feedStxAccept ∧
    decode (.feed 0x1C1#12 none) = .ok (.feedId 0xC1#8) ∧
    decode (.feed 0x205#12 none) = .ok (.feedLengthInvalid 0x05#8) ∧
    decode (.feed 0x2FF#12 none) = .ok (.feedLength 0xFF#8) ∧
    decode (.feed 0x59F#12 (some .chkOk)) = .ok (.feedDataChkOk 0x9F#8) ∧
    decode (.feed 0x7FF#12 none) = .ok (.feedIllegalStep .illegal7 0xFF#8) ∧
    decode (.feed 0xD9F#12 none) = .ok (.feedFaulted .data 0x9F#8) ∧
    decode (.parserPort 0b00#2) = .ok .idle ∧
    decode (.serializer 0b111#3 zeroPkt) = .ok (.serEmit true) ∧
    decode (.serializer 0b100#3 zeroPkt) = .ok (.serWait false) ∧
    (∀ b : BuilderIn, b.n = 0b011111001#9 → decode (.builder b) = .ok (.build b)) ∧
    (∀ b : BuilderIn, b.n = 0b011111010#9 → decode (.builder b) = .ok (.buildInvalid b)) ∧
    decode (.rst 0b1#1) = .ok .reset

/-! ### Frames: what a transaction leaves unchanged -/

/-- spec/10_state.md section 3 and spec/20_memory.md section 1: the in-progress payload changes only by a FEED.DATA_STORE,
at cell `P.cnt`, and by the transactions that clear the whole packet; every other cell, and every cell under every other
transaction, reads as before. -/
def Obligations.PayloadWrittenOnlyByDataStore : Prop :=
  ∀ (i : Instr) (s t : State), exec i s = .next t → returnsToStx i = false → Memory.wf s.P.pkt.payload = true →
    ∀ a, ((∃ v, i = .feedDataStore v) → a ≠ s.P.cnt.toNat) → memRead t.P.pkt.payload a = memRead s.P.pkt.payload a

/-- spec/10_state.md section 2 (decision D9): only FEED.DATA_CHK_OK and RESET write `P.out`. -/
def Obligations.OutWrittenOnlyOnPacketOrReset : Prop :=
  ∀ (i : Instr) (s t : State), exec i s = .next t → t.P.out ≠ s.P.out → (∃ v, i = .feedDataChkOk v) ∨ i = .reset

/-- spec/10_state.md sections 2 and 3 (decision D10): only FEED.ILLEGAL_STEP sets `P.fault` and only RESET clears it. -/
def Obligations.FaultSetAndClearedOnlyByItsRows : Prop :=
  ∀ (i : Instr) (s t : State), exec i s = .next t →
    (s.P.fault = false → t.P.fault = true → ∃ st v, i = .feedIllegalStep st v) ∧
      (s.P.fault = true → t.P.fault = false → i = .reset)

/-- spec/20_memory.md section 4 (derived there) and spec/42_serializer.md section 3: parser, serializer and builder share no
state. Each one's transactions leave the others' state alone, and what they do to their own depends on their own only. -/
def Obligations.AgentsShareNoState : Prop :=
  ∀ (i : Instr) (s t : State), exec i s = .next t →
    ((isFeed i = true ∨ i = .idle) → KeepsAllButParser s t ∧
      ∀ s', s'.P = s.P → ∃ t', exec i s' = .next t' ∧ t'.P = t.P) ∧
    (isSer i = true → KeepsAllButSerializer s t ∧
      ∀ s', s'.S = s.S → ∃ t', exec i s' = .next t' ∧ t'.S = t.S) ∧
    (isBuild i = true → KeepsAllButBuilder s t ∧
      ∀ s', ∃ t', exec i s' = .next t' ∧ t'.B = t.B)

/-- spec/60_exceptions.md section 1 and 2 (R200's table, the status codes are decision D8): a transaction adds one entry to
the record, it shows the status and the fault the transaction left, and its one event is the one its status reports. -/
def Obligations.RecordShowsStatusAndEvent : Prop :=
  ∀ (i : Instr) (s t : State), exec i s = .next t → ∃ o, t.trace = o :: s.trace ∧
    match o with
    | .parser st p f e =>
      (isFeed i = true ∨ i = .idle) ∧ st = t.P.status ∧ f = t.P.fault ∧ p = t.feedResult ∧
        (st = .checksumMismatch ↔ ∃ a b, e = some (.checksumMismatch a b)) ∧
        (st = .invalidFrame ↔ ∃ v, e = some (.invalidFrameParse v))
    | .serializer st w e =>
      isSer i = true ∧ st = t.S.status ∧ (w = none ↔ ¬ ∃ x, i = .serEmit x) ∧
        (st = .invalidFrame ↔ ∃ v, e = some (.invalidFrameSerialize v)) ∧ st ≠ .checksumMismatch
    | .builder p err e =>
      isBuild i = true ∧ p = t.bPkt ∧ err = t.bErr ∧ (err = true ↔ ∃ n, e = some (.invalidFrameConstruct n))
    | .reset => i = .reset

/-! ### Confinement and refusals -/

/-- R252: a second context that issues a FEED, or a second one that drives `ser_valid`, is refused by name; the first one of
the run holds the port. -/
def Obligations.SecondIssuerIsRefused : Prop :=
  ∀ (s : State) (rest : List Request) (a b : Nat) (v : Byte) (p : Packet) (rdy : Bool), a ≠ b →
    (s.inputs = .rx b v :: rest → s.reader = some a → step s = .refused .secondFeedIssuer) ∧
      (s.inputs = .ser b true p rdy :: rest → s.writer = some a → step s = .refused .secondWriter) ∧
      (s.reader = none → ∀ s', checkIssuer (.rx b v) s = .ok s' → s'.reader = some b) ∧
      (s.writer = none → ∀ s', checkIssuer (.ser b true p rdy) s = .ok s' → s'.writer = some b)

/-- spec/70_reset_and_hazards.md section 3 ("The spec has no rule for it") and spec/93_implementation_defined.md I4: a FEED in
DATA while the packet's `length` is below 6 is refused by name (log 6). -/
def Obligations.UndefinedPayloadSizeIsRefused : Prop :=
  ∀ (s : State) (rest : List Request) (ctx : Nat) (v : Byte), s.inputs = .rx ctx v :: rest →
    (s.reader = none ∨ s.reader = some ctx) → s.P.fault = false → s.P.step = .data → s.P.pkt.length.toNat < 6 →
    step s = .refused (.noRow .payloadSizeUndefined)

/-! ### Invariants -/

/-- spec/10_state.md section 6 with spec/40_parser.md section 3: the state after reset meets the invariant. -/
def Obligations.ResetMeetsBlockInvariant : Prop := BlockInv State.reset ∧ State.reset.faulted = false

/-- spec/40_parser.md section 3 (the reachable-state invariant, derived there), with the serializer's, the emitted packet's
and the stores' invariants: every step from a state that meets it gives one that does. -/
def Obligations.BlockInvariantKeptByEveryStep : Prop := ∀ s t : State, BlockInv s → step s = .next t → BlockInv t

/-- spec/20_memory.md section 1: every step keeps every payload buffer in canonical form, whatever the rest of the state. -/
def Obligations.StoresStayCanonical : Prop := ∀ s t : State, StoresWf s → step s = .next t → StoresWf t

/-- From a state that meets the invariant, with the host's duty of one reader and one writer kept (spec/20_memory.md
section 4), every step answers a next state, and the next state is again such a state: no run of a confined host stops. -/
def Obligations.ConfinedHostNeverStops : Prop :=
  ∀ (r w : Nat) (s : State), BlockInv s → Confined r w s → ∃ t, step s = .next t ∧ BlockInv t ∧ Confined r w t

/-- spec/40_parser.md section 3 (a) and spec/60_exceptions.md section 1: from a good state no step raises InternalError. -/
def Obligations.GoodRunNeverFaults : Prop := ∀ s t : State, GoodRun s → step s = .next t → GoodRun t

/-- spec/70_reset_and_hazards.md section 1 (decision D10): a fault stays in the run's record under every step, RESET
included. -/
def Obligations.FaultStaysRecorded : Prop := ∀ s t : State, s.faulted = true → step s = .next t → t.faulted = true

/-- spec/10_state.md sections 1 and 2 (R21, R24): what a step from a good state emits is a valid packet whose payload is 0
at and above its size. -/
def Obligations.EmittedPacketsAreValid : Prop :=
  ∀ (s t : State) (st : ParserStatus) (p : Packet) (f : Bool) (e : Option Event), BlockInv s → step s = .next t →
    t.trace = .parser st (some p) f e :: s.trace →
    st = .packet ∧ t.P.out = p ∧ ValidPacket p ∧ ZeroFrom p.payload (payloadSize p)

/-- spec/41_checksum.md section 2 (derived there): the running accumulator of R154 keeps pace with the parser, so at the
checksum byte it equals CHKP. -/
def Obligations.RunningAccumulatorEqualsChkp : Prop :=
  (∀ (s s' t : State) (i : Instr) (acc : Byte), BlockInv s → AccMatches s.P acc → fetch s = .ok (i, s') →
      exec i s' = .next t → AccMatches t.P (accNext acc i)) ∧
    ∀ (s : State) (acc : Byte), BlockInv s → AccMatches s.P acc → s.P.step = .data → payloadOpen s.P = false →
      acc = chkp s.P.pkt

/-! ### The checksum -/

/-- R150: the seed, and each byte XORed in first and the accumulator incremented, wrapping, second. -/
def Obligations.ChecksumFoldsXorThenIncrement : Prop :=
  chk [] = 0x02#8 ∧
    ∀ (bs : List Byte) (b : Byte), (chk (bs ++ [b])).toNat = (((chk bs).toNat ^^^ b.toNat) + 1) % 256

/-- spec/41_checksum.md section 3 (derived there): two byte sequences of one length that differ in exactly one position have
different checksums; a valid packet with another checksum byte is not valid. -/
def Obligations.SingleByteErrorsAreDetected : Prop :=
  (∀ (pre post : List Byte) (x y : Byte), x ≠ y → chk (pre ++ x :: post) ≠ chk (pre ++ y :: post)) ∧
    ∀ (p : Packet) (c : Byte), ValidPacket p → c ≠ p.checksum → ¬ ValidPacket { p with checksum := c }

/-! ### Whole frames -/

/-- spec/40_parser.md section 3 (R116, derived there): from STX the bytes of a frame with a legal LENGTH take exactly LENGTH
FEEDs. All but the last write NONE; the last writes PACKET if the checksum byte is CHK of the body and CHECKSUM_MISMATCH
otherwise; after it the parser waits in STX. -/
def Obligations.FrameIsConsumedWhole : Prop :=
  ∀ (s : State) (F : Packet) (ctx : Nat), BlockInv s → s.P.step = .stx → WellFormedPacket F →
    (s.reader = none ∨ s.reader = some ctx) →
    (serBytes F).length = F.length.toNat ∧
      ∃ t o, runRequests ((serBytes F).map (.rx ctx)) s = .next t ∧
        t.trace = o :: (List.replicate (F.length.toNat - 1) (Obs.parser .none none false none) ++ s.trace) ∧
        t.P.step = .stx ∧ t.P.pkt = zeroPkt ∧ t.P.cnt = 0#8 ∧ t.S = s.S ∧ t.B = s.B ∧ t.inputs = s.inputs ∧
        (F.checksum = chkp F →
          o = .parser .packet (some t.P.out) false none ∧ MeaningfullyEqual t.P.out F ∧
            ZeroFrom t.P.out.payload (payloadSize F)) ∧
        (F.checksum ≠ chkp F →
          o = .parser .checksumMismatch none false (some (.checksumMismatch F.checksum (chkp F))) ∧
            t.P.out = s.P.out)

/-- spec/42_serializer.md section 3 (R182, derived there) for built packets: what the builder builds, fed back from STX, is
emitted field for field, on its last FEED and on no other. -/
def Obligations.BuiltPacketRoundTrips : Prop :=
  ∀ (s : State) (b : BuilderIn) (ctx : Nat), BlockInv s → s.P.step = .stx → b.n.toNat ≤ 249 →
    (s.reader = none ∨ s.reader = some ctx) →
    ∃ t, runRequests ((serBytes (buildPkt b)).map (.rx ctx)) s = .next t ∧ t.P.status = .packet ∧
      t.P.out = buildPkt b ∧ emittedPackets t.trace = emittedPackets s.trace ++ [buildPkt b]

/-- spec/40_parser.md section 3 (R117, derived there): bytes without a marker never leave STX and emit nothing. -/
def Obligations.NoMarkerNoFrame : Prop :=
  ∀ (s : State) (vs : List Byte) (ctx : Nat), s.P.fault = false → s.P.step = .stx → 0x02#8 ∉ vs →
    (s.reader = none ∨ s.reader = some ctx) →
    ∃ t, runRequests (vs.map (.rx ctx)) s = .next t ∧ t.P.step = .stx ∧ t.P.pkt = s.P.pkt ∧ t.P.cnt = s.P.cnt ∧
      t.P.out = s.P.out ∧ emittedPackets t.trace = emittedPackets s.trace

/-- spec/70_reset_and_hazards.md section 3 (R250, derived there): from STX, with any port values but RESET, an emitted packet
stays in `P.out` until the sixth further FEED. -/
def Obligations.EmittedPacketWindow : Prop :=
  ∀ (s t : State) (rs : List Request), s.P.step = .stx → BlockInv s → Request.rst ∉ rs → feedCount rs ≤ 5 →
    runRequests rs s = .next t → t.P.out = s.P.out

/-- R180 and R216 together (spec/42_serializer.md section 2, spec/60_exceptions.md section 4): from an idle serializer a
request for a legal packet, and then as many acceptances as it has bytes with any waits between, hand exactly the bytes of
SER to the Transport, in order, and leave the serializer ready. -/
def Obligations.SerializerSendsWholeFrame : Prop :=
  ∀ (s : State) (p : Packet) (ctx : Nat) (rdy : Bool) (es : List SinkEvent), s.S.busy = false → 6 ≤ p.length.toNat →
    (s.writer = none ∨ s.writer = some ctx) → SinkEvent.ioError ∉ es → es.count .accepted = p.length.toNat →
    ∃ t, runRequests (.ser ctx true p rdy :: sinkLoop ctx es) s = .next t ∧
      wireBytes t.trace = wireBytes s.trace ++ serBytes p ∧ t.S.busy = false ∧ t.S.buf = p ∧ t.P = s.P ∧
      t.inputs = s.inputs

/-! ### The block and its Transport -/

/-- spec/30_encoding.md section 3 (R80) and spec/20_memory.md section 4 (R62, derived there): the parser's and the
serializer's transactions of one step of the block may run in either order. -/
def Obligations.BlockStepOrderIsFree : Prop :=
  ∀ (p : Pins) (reader writer : Nat) (s t : State), blockStep p reader writer s = .next t →
    ∃ u, blockStepSerFirst p reader writer s = .next u ∧ u.P = t.P ∧ u.S = t.S ∧ u.B = t.B ∧ u.inputs = t.inputs ∧
      u.reader = t.reader ∧ u.writer = t.writer

/-- spec/70_reset_and_hazards.md section 1 (R241, decision D28): in a step of the block with `rst = 1` no byte is consumed
and none is written, whatever the other ports show; both agents take their reset values; the builder is evaluated. -/
def Obligations.ResetPreemptsOtherTransactions : Prop :=
  ∀ (p : Pins) (reader writer : Nat) (s : State), p.rst = true →
    ∃ t, blockStep p reader writer s = .next t ∧ t.P = State.reset.P ∧ t.S = State.reset.S ∧ t.B = p.b ∧
      t.bPkt = builderPkt p.b ∧ t.inputs = s.inputs ∧ wireBytes t.trace = wireBytes s.trace ∧
      emittedPackets t.trace = emittedPackets s.trace

/-- spec/60_exceptions.md section 4 (R215): `read_byte` retries any number of timeouts and gives its caller the byte, or the
fatal error, that follows. -/
def Obligations.ReadByteHidesTimeouts : Prop :=
  ∀ (k : Nat) (v : Byte) (es : List DeviceEvent),
    readByte (List.replicate k .timeout ++ .byte v :: es) = (.byte v, es) ∧
      readByte (List.replicate k .timeout ++ .ioError :: es) = (.ioError, es) ∧
      readByte (List.replicate k .timeout) = (.waiting, [])

/-- spec/40_parser.md section 1 (IDLE) and spec/60_exceptions.md section 4 (R215): timeouts are IDLE steps to the block, and
the packets emitted, and the parser but for its per-step status, are those of the delivered bytes alone. -/
def Obligations.TimeoutsDoNotChangeParsing : Prop :=
  ∀ (es : List DeviceEvent) (ctx : Nat) (s t u : State),
    runRequests (readerLoop ctx es) s = .next t → runRequests ((deliveredBytes es).map (.rx ctx)) s = .next u →
    emittedPackets t.trace = emittedPackets u.trace ∧ { t.P with status := .none } = { u.P with status := .none } ∧
      t.S = u.S

/-- spec/10_state.md section 1 (R24, derived there): for packets with canonical payloads that are 0 at and above their
size, meaningful equality and equality field for field agree. -/
def Obligations.MeaningfulEqualityIsEqualityOnZeroTails : Prop :=
  ∀ p q : Packet, 6 ≤ p.length.toNat → Memory.wf p.payload = true → Memory.wf q.payload = true →
    ZeroFrom p.payload (payloadSize p) → ZeroFrom q.payload (payloadSize q) → (MeaningfullyEqual p q ↔ p = q)

/-- spec/30_encoding.md section 6 (R85, decision D22): `FRAME` is refused at assembly exactly where BUILD gives InvalidFrame,
and its FEEDs emit the built packet. -/
def Obligations.FrameLineEmitsBuiltPacket : Prop :=
  ∀ (id command sequence : Byte) (d : List Byte), d.length ≤ 256 →
    ((Line.frame id command sequence d).expand = none ↔ builderErr (builderInputs id command sequence d) = true) ∧
      ∀ rs, (Line.frame id command sequence d).expand = some rs →
        ∃ t, runRequests rs State.reset = .next t ∧ t.P.status = .packet ∧
          t.P.out = builderPkt (builderInputs id command sequence d)
end

