-- ==== Sys2Proof/Laws/Decode.lean ====
section
/-! SUPPORT. The fields of the keys: each comes back from the key it was put into. -/

namespace Sys2Proof

@[simp] theorem ParseStep.ofCode_code (st : ParseStep) : ParseStep.ofCode st.code = st := by cases st <;> rfl

@[simp] theorem ParseStep.code_ofCode (c : BitVec 3) : (ParseStep.ofCode c).code = c := by revert c; decide

@[simp] theorem feedKeyBits_v (f : Bool) (st : ParseStep) (v : Byte) : (feedKeyBits f st v).extractLsb' 0 8 = v := by
  cases f <;> cases st <;> revert v <;> decide

@[simp] theorem feedKeyBits_step (f : Bool) (st : ParseStep) (v : Byte) :
    (feedKeyBits f st v).extractLsb' 8 3 = st.code := by
  cases f <;> cases st <;> revert v <;> decide

@[simp] theorem feedKeyBits_fault (f : Bool) (st : ParseStep) (v : Byte) :
    (feedKeyBits f st v).extractLsb' 11 1 = BitVec.ofBool f := by
  cases f <;> cases st <;> revert v <;> decide

@[simp] theorem serKeyBits_busy (b v r : Bool) : (serKeyBits b v r).getLsbD 2 = b := by
  cases b <;> cases v <;> cases r <;> rfl

@[simp] theorem serKeyBits_serValid (b v r : Bool) : (serKeyBits b v r).getLsbD 1 = v := by
  cases b <;> cases v <;> cases r <;> rfl

@[simp] theorem serKeyBits_txReady (b v r : Bool) : (serKeyBits b v r).getLsbD 0 = r := by
  cases b <;> cases v <;> cases r <;> rfl

/-- What a FEED's own key decodes to: the row of `{fault, step, v}` and the DATA condition (spec/30_encoding.md R81). -/
theorem decodeFeed_key (f : Bool) (st : ParseStep) (v : Byte) (c : Option DataCond) :
    decodeFeed (feedKeyBits f st v) c =
      if f then .ok (.feedFaulted st v)
      else match st with
        | .illegal6 => .ok (.feedIllegalStep .illegal6 v)
        | .illegal7 => .ok (.feedIllegalStep .illegal7 v)
        | .stx => .ok (if v = Config.marker then .feedStxAccept else .feedStxDiscard v)
        | .id => .ok (.feedId v)
        | .length => .ok (if Machine.lengthRejected Config.payloadCap v then .feedLengthInvalid v else .feedLength v)
        | .command => .ok (.feedCommand v)
        | .sequence => .ok (.feedSequence v)
        | .data =>
          match c with
          | some .store => .ok (.feedDataStore v)
          | some .chkOk => .ok (.feedDataChkOk v)
          | some .chkBad => .ok (.feedDataChkBad v)
          | none => .error .payloadSizeUndefined := by
  simp only [decodeFeed, feedKeyBits_fault, feedKeyBits_step, feedKeyBits_v, ParseStep.ofCode_code]
  cases f
  · cases st <;> rfl
  · rfl

/-- What a serializer key decodes to (spec/30_encoding.md R82). -/
theorem decodeSerializer_key (b v r : Bool) (p : Packet) :
    decodeSerializer (serKeyBits b v r) p =
      if b then (if r then .serEmit v else .serWait v)
      else if v then (if Machine.lengthOk p.length then .serStart r p else .serStartInvalid r p)
      else .serIdle r := by
  simp only [decodeSerializer, serKeyBits_busy, serKeyBits_serValid, serKeyBits_txReady]

end Sys2Proof
end

