-- ==== Sys2Proof/Laws/Memory.lean ====
section
/-! SUPPORT. The payload buffer: a read after a write, the canonical form, the copy loop, the list of its first bytes. -/

namespace Sys2Proof.Machine

@[simp] theorem memRead_nil (i : Nat) : memRead [] i = 0#8 := rfl

theorem memRead_cons (a : Nat) (v : Byte) (m : Memory) (i : Nat) :
    memRead ((a, v) :: m) i = if a = i then v else memRead m i := rfl

/-- Below its first index a canonical buffer reads as 0. -/
theorem memRead_of_lt {lo : Nat} {m : Memory} (h : Memory.wfFrom lo m = true) {i : Nat} (hi : i < lo) :
    memRead m i = 0#8 := by
  induction m generalizing lo with
  | nil => rfl
  | cons c m ih =>
    obtain ⟨a, v⟩ := c
    simp only [Memory.wfFrom, Bool.and_eq_true, decide_eq_true_eq] at h
    obtain ⟨⟨⟨hlo, -⟩, -⟩, hm⟩ := h
    rw [memRead_cons, if_neg (by omega)]
    exact ih hm (by omega)

/-- A read after a write: the byte written at its index, the old byte elsewhere. -/
theorem memRead_memWrite {lo : Nat} {m : Memory} (h : Memory.wfFrom lo m = true) (i : Nat) (v : Byte) (j : Nat) :
    memRead (memWrite m i v) j = if j = i then v else memRead m j := by
  induction m generalizing lo with
  | nil =>
    by_cases hv : v = 0#8
    · simp [memWrite, hv]
    · simp [memWrite, hv, memRead_cons, eq_comm]
  | cons c m ih =>
    obtain ⟨a, w⟩ := c
    simp only [Memory.wfFrom, Bool.and_eq_true, decide_eq_true_eq] at h
    obtain ⟨⟨⟨-, -⟩, -⟩, hm⟩ := h
    rcases Nat.lt_trichotomy i a with hia | rfl | hia
    · by_cases hv : v = 0#8
      · simp only [memWrite, hia, hv, if_true]
        by_cases hj : j = i
        · subst hj
          rw [memRead_cons, if_neg (by omega), if_pos rfl]
          exact memRead_of_lt hm (by omega)
        · rw [if_neg hj]
      · simp only [memWrite, hia, hv, if_true, if_false, memRead_cons]
        by_cases hj : j = i
        · simp [hj]
        · rw [if_neg (Ne.symm hj), if_neg hj]
    · by_cases hv : v = 0#8
      · simp only [memWrite, lt_irrefl, if_false, if_true, hv]
        by_cases hj : j = i
        · subst hj
          rw [if_pos rfl]
          exact memRead_of_lt hm (by omega)
        · rw [if_neg hj, memRead_cons, if_neg (Ne.symm hj)]
      · simp only [memWrite, lt_irrefl, if_false, if_true, hv, memRead_cons]
        by_cases hj : j = i
        · simp [hj]
        · simp [Ne.symm hj, hj]
    · have h1 : ¬ i < a := by omega
      have h2 : i ≠ a := by omega
      simp only [memWrite, h1, h2, if_false, memRead_cons, ih hm]
      by_cases hj : a = j
      · subst hj
        simp [Ne.symm h2]
      · simp [hj]

/-- A write keeps the canonical form. -/
theorem memWrite_wfFrom {lo : Nat} {m : Memory} (h : Memory.wfFrom lo m = true) {i : Nat} (hlo : lo ≤ i)
    (hi : i < Config.payloadCap) (v : Byte) : Memory.wfFrom lo (memWrite m i v) = true := by
  induction m generalizing lo with
  | nil =>
    by_cases hv : v = 0#8
    · simp [memWrite, hv, Memory.wfFrom]
    · simp [memWrite, hv, Memory.wfFrom, hlo, hi]
  | cons c m ih =>
    obtain ⟨a, w⟩ := c
    simp only [Memory.wfFrom, Bool.and_eq_true, decide_eq_true_eq] at h
    obtain ⟨⟨⟨hla, hac⟩, hw⟩, hm⟩ := h
    rcases Nat.lt_trichotomy i a with hia | rfl | hia
    · by_cases hv : v = 0#8
      · simp [memWrite, hia, hv, Memory.wfFrom, hla, hac, hw, hm]
      · simp [memWrite, hia, hv, Memory.wfFrom, hlo, hi, hac, hw, hm]
    · by_cases hv : v = 0#8
      · have hup : ∀ (k l : Nat) (n : Memory), k ≤ l → Memory.wfFrom l n = true → Memory.wfFrom k n = true := by
          intro k l n hkl hn
          cases n with
          | nil => rfl
          | cons c n =>
            simp only [Memory.wfFrom, Bool.and_eq_true, decide_eq_true_eq] at hn ⊢
            exact ⟨⟨⟨by omega, hn.1.1.2⟩, hn.1.2⟩, hn.2⟩
        simpa [memWrite, hv] using hup lo (i + 1) m (by omega) hm
      · simp [memWrite, hv, Memory.wfFrom, hla, hac, hm]
    · have h1 : ¬ i < a := by omega
      have h2 : i ≠ a := by omega
      simp [memWrite, h1, h2, Memory.wfFrom, hla, hac, hw, ih hm (by omega : a + 1 ≤ i)]

/-- `MemWrite` inside the buffer keeps the canonical form. -/
theorem memWrite_wf {m : Memory} (h : m.wf = true) {i : Nat} (hi : i < Config.payloadCap) (v : Byte) :
    Memory.wf (memWrite m i v) = true := memWrite_wfFrom h (Nat.zero_le i) hi v

/-- `MemRead` after `MemWrite` on a canonical buffer. -/
theorem memRead_memWrite_wf {m : Memory} (h : m.wf = true) (i : Nat) (v : Byte) (j : Nat) :
    memRead (memWrite m i v) j = if j = i then v else memRead m j := memRead_memWrite h i v j

/-- The copy loop gives a canonical buffer. -/
theorem copyFirst_wf (data : Memory) {k : Nat} (hk : k ≤ Config.payloadCap) : Memory.wf (copyFirst data k) = true := by
  induction k with
  | zero => rfl
  | succ k ih => exact memWrite_wf (ih (by omega)) (by omega) _

/-- The copy loop gives the data bytes below its bound and zeros above it. -/
theorem memRead_copyFirst (data : Memory) {k : Nat} (hk : k ≤ Config.payloadCap) (i : Nat) :
    memRead (copyFirst data k) i = if i < k then memRead data i else 0#8 := by
  induction k with
  | zero => rfl
  | succ k ih =>
    rw [copyFirst, memRead_memWrite_wf (copyFirst_wf data (by omega)), ih (by omega)]
    by_cases h : i = k
    · subst h
      simp
    · by_cases h2 : i < k
      · rw [if_neg h, if_pos h2, if_pos (by omega)]
      · rw [if_neg h, if_neg h2, if_neg (by omega)]

@[simp] theorem payloadBytes_length (m : Memory) (k : Nat) : (payloadBytes m k).length = k := by simp [payloadBytes]

theorem payloadBytes_getElem (m : Memory) (k i : Nat) (h : i < (payloadBytes m k).length) :
    (payloadBytes m k)[i] = memRead m i := by simp [payloadBytes]

theorem payloadBytes_succ (m : Memory) (k : Nat) : payloadBytes m (k + 1) = payloadBytes m k ++ [memRead m k] := by
  simp [payloadBytes, List.range_succ]

/-- Two buffers that read alike below `k` have the same first `k` bytes. -/
theorem payloadBytes_congr {m m' : Memory} {k : Nat} (h : ∀ i < k, memRead m i = memRead m' i) :
    payloadBytes m k = payloadBytes m' k := by
  simp only [payloadBytes]
  exact List.map_congr_left fun i hi => h i (List.mem_range.mp hi)

end Sys2Proof.Machine
end

