-- ==== Sys2Proof/Laws/Packet.lean ====
section
/-! SUPPORT. The packet functions: what the length checks say, CHK on a list taken apart, CHKP and SER under updates of
fields they do not read. -/

namespace Sys2Proof.Machine

theorem lengthOk_iff (v : Byte) : lengthOk v = true ↔ 6 ≤ v.toNat := by simp [lengthOk]

theorem lengthOk_eq_false (v : Byte) : lengthOk v = false ↔ v.toNat < 6 := by simp [lengthOk]

theorem buildFits_iff (n : BitVec 9) : buildFits n = true ↔ n.toNat ≤ 249 := by simp [buildFits]

theorem payloadSize_eq (p : Packet) : payloadSize p = p.length.toNat - 6 := rfl

/-- At this block's capacity the length check is the minimum-length check alone (spec/40_parser.md R105). -/
theorem lengthRejected_payloadCap (v : Byte) : lengthRejected Config.payloadCap v = !lengthOk v := by
  have hv := v.isLt
  have hcap : ¬ Config.payloadCap < v.toNat - Config.overhead := by
    show ¬ 256 < v.toNat - 6
    omega
  simp only [lengthRejected, hcap, decide_false, Bool.or_false]

/-- The payload size never reaches the buffer's capacity (spec/20_memory.md R52). -/
theorem payloadSize_le (p : Packet) : payloadSize p ≤ 249 := by
  have := p.length.isLt
  simp only [payloadSize, Config.overhead]
  omega

@[simp] theorem chk_nil : chk [] = Config.marker := rfl

/-- CHK takes its bytes one by one, the last byte last (spec/41_checksum.md R150). -/
theorem chk_append (bs : List Byte) (b : Byte) : chk (bs ++ [b]) = chkStep (chk bs) b := by simp [chk]

/-- CHKP reads neither `stx` nor `checksum` (spec/41_checksum.md R151). -/
@[simp] theorem chkp_with_checksum (p : Packet) (c : Byte) : chkp { p with checksum := c } = chkp p := rfl

@[simp] theorem chkp_with_stx (p : Packet) (x : Byte) : chkp { p with stx := x } = chkp p := rfl

@[simp] theorem payloadSize_with_checksum (p : Packet) (c : Byte) :
    payloadSize { p with checksum := c } = payloadSize p := rfl

theorem bodyBytes_length (p : Packet) : (bodyBytes p).length = payloadSize p + 4 := by simp [bodyBytes]

/-- The frame of a packet: the marker field, the body, the checksum field. -/
theorem serBytes_eq (p : Packet) : serBytes p = p.stx :: (bodyBytes p ++ [p.checksum]) := by simp [serBytes, bodyBytes]

end Sys2Proof.Machine
end

