-- ==== Sys2Proof/Laws/State.lean ====
section
/-! SUPPORT. One lemma for each field of each update, true by rfl: no later proof unfolds a record update. -/

namespace Sys2Proof.Machine

@[simp] theorem parserDone_P (s : State) (P : ParserState) (e : Option Event) : (parserDone s P e).P = P := rfl
@[simp] theorem parserDone_S (s : State) (P : ParserState) (e : Option Event) : (parserDone s P e).S = s.S := rfl
@[simp] theorem parserDone_B (s : State) (P : ParserState) (e : Option Event) : (parserDone s P e).B = s.B := rfl
@[simp] theorem parserDone_inputs (s : State) (P : ParserState) (e : Option Event) : (parserDone s P e).inputs = s.inputs := rfl
@[simp] theorem parserDone_reader (s : State) (P : ParserState) (e : Option Event) : (parserDone s P e).reader = s.reader := rfl
@[simp] theorem parserDone_writer (s : State) (P : ParserState) (e : Option Event) : (parserDone s P e).writer = s.writer := rfl
@[simp] theorem parserDone_trace (s : State) (P : ParserState) (e : Option Event) : (parserDone s P e).trace = .parser P.status (shownPacket P) P.fault e :: s.trace := rfl

@[simp] theorem serializerDone_P (s : State) (S : SerializerState) (w : Option Byte) (e : Option Event) : (serializerDone s S w e).P = s.P := rfl
@[simp] theorem serializerDone_S (s : State) (S : SerializerState) (w : Option Byte) (e : Option Event) : (serializerDone s S w e).S = S := rfl
@[simp] theorem serializerDone_B (s : State) (S : SerializerState) (w : Option Byte) (e : Option Event) : (serializerDone s S w e).B = s.B := rfl
@[simp] theorem serializerDone_inputs (s : State) (S : SerializerState) (w : Option Byte) (e : Option Event) : (serializerDone s S w e).inputs = s.inputs := rfl
@[simp] theorem serializerDone_reader (s : State) (S : SerializerState) (w : Option Byte) (e : Option Event) : (serializerDone s S w e).reader = s.reader := rfl
@[simp] theorem serializerDone_writer (s : State) (S : SerializerState) (w : Option Byte) (e : Option Event) : (serializerDone s S w e).writer = s.writer := rfl
@[simp] theorem serializerDone_trace (s : State) (S : SerializerState) (w : Option Byte) (e : Option Event) : (serializerDone s S w e).trace = .serializer S.status w e :: s.trace := rfl

@[simp] theorem builderDone_P (s : State) (b : BuilderIn) (p : Packet) (err : Bool) (e : Option Event) : (builderDone s b p err e).P = s.P := rfl
@[simp] theorem builderDone_S (s : State) (b : BuilderIn) (p : Packet) (err : Bool) (e : Option Event) : (builderDone s b p err e).S = s.S := rfl
@[simp] theorem builderDone_B (s : State) (b : BuilderIn) (p : Packet) (err : Bool) (e : Option Event) : (builderDone s b p err e).B = b := rfl
@[simp] theorem builderDone_inputs (s : State) (b : BuilderIn) (p : Packet) (err : Bool) (e : Option Event) : (builderDone s b p err e).inputs = s.inputs := rfl
@[simp] theorem builderDone_reader (s : State) (b : BuilderIn) (p : Packet) (err : Bool) (e : Option Event) : (builderDone s b p err e).reader = s.reader := rfl
@[simp] theorem builderDone_writer (s : State) (b : BuilderIn) (p : Packet) (err : Bool) (e : Option Event) : (builderDone s b p err e).writer = s.writer := rfl
@[simp] theorem builderDone_trace (s : State) (b : BuilderIn) (p : Packet) (err : Bool) (e : Option Event) : (builderDone s b p err e).trace = .builder p err e :: s.trace := rfl

@[simp] theorem resetDone_P (s : State) : (resetDone s).P = ParserState.reset := rfl
@[simp] theorem resetDone_S (s : State) : (resetDone s).S = SerializerState.reset := rfl
@[simp] theorem resetDone_B (s : State) : (resetDone s).B = s.B := rfl
@[simp] theorem resetDone_inputs (s : State) : (resetDone s).inputs = s.inputs := rfl
@[simp] theorem resetDone_reader (s : State) : (resetDone s).reader = s.reader := rfl
@[simp] theorem resetDone_writer (s : State) : (resetDone s).writer = s.writer := rfl
@[simp] theorem resetDone_trace (s : State) : (resetDone s).trace = .reset :: s.trace := rfl

@[simp] theorem returnToStx_step (P : ParserState) (st : ParserStatus) : (returnToStx P st).step = .stx := rfl
@[simp] theorem returnToStx_cnt (P : ParserState) (st : ParserStatus) : (returnToStx P st).cnt = 0#8 := rfl
@[simp] theorem returnToStx_pkt (P : ParserState) (st : ParserStatus) : (returnToStx P st).pkt = zeroPkt := rfl
@[simp] theorem returnToStx_out (P : ParserState) (st : ParserStatus) : (returnToStx P st).out = P.out := rfl
@[simp] theorem returnToStx_status (P : ParserState) (st : ParserStatus) : (returnToStx P st).status = st := rfl
@[simp] theorem returnToStx_fault (P : ParserState) (st : ParserStatus) : (returnToStx P st).fault = P.fault := rfl

@[simp] theorem parserHold_step (P : ParserState) : (parserHold P).step = P.step := rfl
@[simp] theorem parserHold_cnt (P : ParserState) : (parserHold P).cnt = P.cnt := rfl
@[simp] theorem parserHold_pkt (P : ParserState) : (parserHold P).pkt = P.pkt := rfl
@[simp] theorem parserHold_out (P : ParserState) : (parserHold P).out = P.out := rfl
@[simp] theorem parserHold_status (P : ParserState) : (parserHold P).status = .none := rfl
@[simp] theorem parserHold_fault (P : ParserState) : (parserHold P).fault = P.fault := rfl

@[simp] theorem serializerHold_busy (S : SerializerState) : (serializerHold S).busy = S.busy := rfl
@[simp] theorem serializerHold_idx (S : SerializerState) : (serializerHold S).idx = S.idx := rfl
@[simp] theorem serializerHold_buf (S : SerializerState) : (serializerHold S).buf = S.buf := rfl
@[simp] theorem serializerHold_status (S : SerializerState) : (serializerHold S).status = .none := rfl

@[simp] theorem zeroPkt_stx : zeroPkt.stx = 0#8 := rfl
@[simp] theorem zeroPkt_id : zeroPkt.id = 0#8 := rfl
@[simp] theorem zeroPkt_length : zeroPkt.length = 0#8 := rfl
@[simp] theorem zeroPkt_command : zeroPkt.command = 0#8 := rfl
@[simp] theorem zeroPkt_sequence : zeroPkt.sequence = 0#8 := rfl
@[simp] theorem zeroPkt_payload : zeroPkt.payload = [] := rfl
@[simp] theorem zeroPkt_checksum : zeroPkt.checksum = 0#8 := rfl

/-- The buffer of the serializer is kept by an EMIT (spec/42_serializer.md R180). -/
@[simp] theorem afterEmit_buf (S : SerializerState) : (afterEmit S).buf = S.buf := by
  unfold afterEmit
  split <;> rfl

@[simp] theorem afterEmit_status (S : SerializerState) : (afterEmit S).status = .none := by
  unfold afterEmit
  split <;> rfl

end Sys2Proof.Machine
end

