-- ==== Sys2Proof/Laws/Ops.lean ====
section
/-! SUPPORT. Each shared operation, once: everything it can do. -/

namespace Sys2Proof.Machine

/-- A selected transaction answers its next state, any other is refused. -/
@[simp] theorem whenSelected_true (t : State) : whenSelected true t = .next t := rfl

@[simp] theorem whenSelected_false (t : State) : whenSelected false t = .refused .notSelected := rfl

theorem whenSelected_next_iff (c : Bool) (t u : State) : whenSelected c t = .next u ↔ c = true ∧ t = u := by
  cases c <;> simp [whenSelected]

theorem whenSelected_refused_iff (c : Bool) (t : State) (r : Refusal) :
    whenSelected c t = .refused r ↔ c = false ∧ r = .notSelected := by
  cases c <;> simp [whenSelected, eq_comm]

theorem whenSelected_not_fault (c : Bool) (t : State) (f : Fault) : whenSelected c t ≠ .fault f := by
  cases f

theorem parserAt_iff (s : State) (st : ParseStep) : parserAt s st = true ↔ s.P.fault = false ∧ s.P.step = st := by
  simp [parserAt]

theorem parserAtData_iff (s : State) :
    parserAtData s = true ↔ s.P.fault = false ∧ s.P.step = .data ∧ 6 ≤ s.P.pkt.length.toNat := by
  simp [parserAtData, parserAt_iff, lengthOk_iff, and_assoc]

theorem payloadOpen_iff (P : ParserState) : payloadOpen P = true ↔ P.cnt.toNat < P.pkt.length.toNat - 6 := by
  simp only [payloadOpen, decide_eq_true_eq]
  rfl

theorem checksumAccepted_iff (v : Byte) (p : Packet) : checksumAccepted v p = true ↔ v = chkp p := by
  simp [checksumAccepted]

theorem shownPacket_of_ne {P : ParserState} (h : P.status ≠ .packet) : shownPacket P = none := by simp [shownPacket, h]

theorem shownPacket_of_eq {P : ParserState} (h : P.status = .packet) : shownPacket P = some P.out := by
  simp [shownPacket, h]

/-- An EMIT moves the index on, or, at the frame's last byte, ends the frame (spec/42_serializer.md R180). -/
theorem afterEmit_cases (S : SerializerState) :
    (S.idx = S.buf.length - 1#8 ∧ afterEmit S = { S with busy := false, idx := 0#8, status := .none }) ∨
    (S.idx ≠ S.buf.length - 1#8 ∧ afterEmit S = { S with idx := S.idx + 1#8, status := .none }) := by
  unfold afterEmit
  by_cases h : S.idx = S.buf.length - 1#8
  · exact .inl ⟨h, by rw [if_pos h]⟩
  · exact .inr ⟨h, by rw [if_neg h]⟩

/-- Admission changes only who holds the port. -/
theorem checkIssuer_ok {r : Request} {s s' : State} (h : checkIssuer r s = .ok s') :
    s'.P = s.P ∧ s'.S = s.S ∧ s'.B = s.B ∧ s'.inputs = s.inputs ∧ s'.trace = s.trace := by
  unfold checkIssuer at h
  split at h
  · split at h
    · cases h; simp
    · cases h
  · split at h
    · cases h; simp
    · cases h
  · cases h; simp

/-- A fetch takes the first port values, or an IDLE where there are none, and changes neither agent nor the record. -/
theorem fetch_ok {s s' : State} {i : Instr} (h : fetch s = .ok (i, s')) :
    ∃ r rest, (s.inputs = r :: rest ∨ (s.inputs = [] ∧ r = .rxIdle ∧ rest = [])) ∧ s'.inputs = rest ∧
      s'.P = s.P ∧ s'.S = s.S ∧ s'.B = s.B ∧ s'.trace = s.trace ∧ decode (sampleOf r s') = .ok i := by
  have htake : ∀ (r : Request) (u : State), take r u = .ok (i, s') → s'.inputs = u.inputs ∧ s'.P = u.P ∧ s'.S = u.S ∧
      s'.B = u.B ∧ s'.trace = u.trace ∧ decode (sampleOf r s') = .ok i := by
    intro r u ht
    unfold take at ht
    split at ht
    next u' hu =>
      obtain ⟨h1, h2, h3, h4, h5⟩ := checkIssuer_ok hu
      unfold select at ht
      split at ht
      next j hj =>
        simp only [Except.ok.injEq, Prod.mk.injEq] at ht
        obtain ⟨rfl, rfl⟩ := ht
        exact ⟨h4, h1, h2, h3, h5, hj⟩
      next => cases ht
    next => cases ht
  unfold fetch at h
  split at h
  next hq =>
    obtain ⟨h1, h2, h3, h4, h5, h6⟩ := htake _ _ h
    exact ⟨.rxIdle, [], .inr ⟨hq, rfl, rfl⟩, by rw [h1, hq], h2, h3, h4, h5, h6⟩
  next r rest hq =>
    obtain ⟨h1, h2, h3, h4, h5, h6⟩ := htake _ _ h
    exact ⟨r, rest, .inl hq, h1, h2, h3, h4, h5, h6⟩

/-- A step that answers runs the fetched transaction. -/
theorem step_next {s t : State} (h : step s = .next t) : ∃ i s', fetch s = .ok (i, s') ∧ exec i s' = .next t := by
  unfold step at h
  split at h
  next i s' hf => exact ⟨i, s', hf, h⟩
  next => cases h

end Sys2Proof.Machine
end

