-- ==== Sys2Proof/Laws/PerInstr.lean ====
section
/-! SUPPORT. One family of facts for each instruction as syntax: the key its encoding puts on the ports lies in its row of
spec/opcode_table.json (spec/30_encoding.md R81, R82). -/

namespace Sys2Proof.Laws.KeyFits

/-- The encoded key of a well-formed transaction lies in its row's mask and match. -/
def Statement (i : Instr) : Prop := WellFormed i = true → i.row.hits (encode i).key = true

theorem feedFaulted (st : ParseStep) (v : Byte) : Statement (.feedFaulted st v) := by
  intro _; revert v; cases st <;> decide

theorem feedIllegalStep (st : ParseStep) (v : Byte) : Statement (.feedIllegalStep st v) := by
  intro h
  cases st <;> first | (exact absurd h (by decide)) | (revert v; decide)

theorem feedStxAccept : Statement .feedStxAccept := by intro _; decide

theorem feedStxDiscard (v : Byte) : Statement (.feedStxDiscard v) := by intro _; revert v; decide

theorem feedId (v : Byte) : Statement (.feedId v) := by intro _; revert v; decide

theorem feedLengthInvalid (v : Byte) : Statement (.feedLengthInvalid v) := by intro _; revert v; decide

theorem feedLength (v : Byte) : Statement (.feedLength v) := by intro _; revert v; decide

theorem feedCommand (v : Byte) : Statement (.feedCommand v) := by intro _; revert v; decide

theorem feedSequence (v : Byte) : Statement (.feedSequence v) := by intro _; revert v; decide

theorem feedDataStore (v : Byte) : Statement (.feedDataStore v) := by intro _; revert v; decide

theorem feedDataChkOk (v : Byte) : Statement (.feedDataChkOk v) := by intro _; revert v; decide

theorem feedDataChkBad (v : Byte) : Statement (.feedDataChkBad v) := by intro _; revert v; decide

theorem idle : Statement .idle := by intro _; decide

theorem serStart (r : Bool) (p : Packet) : Statement (.serStart r p) := by
  intro _; cases r <;> simp [Instr.row, Row.hits, encode, Sample.key, serKeyBits]

theorem serStartInvalid (r : Bool) (p : Packet) : Statement (.serStartInvalid r p) := by
  intro _; cases r <;> simp [Instr.row, Row.hits, encode, Sample.key, serKeyBits]

theorem serIdle (r : Bool) : Statement (.serIdle r) := by intro _; cases r <;> decide

theorem serEmit (v : Bool) : Statement (.serEmit v) := by intro _; cases v <;> decide

theorem serWait (v : Bool) : Statement (.serWait v) := by intro _; cases v <;> decide

theorem build (b : BuilderIn) : Statement (.build b) := by intro _; simp [Instr.row, Row.hits]

theorem buildInvalid (b : BuilderIn) : Statement (.buildInvalid b) := by intro _; simp [Instr.row, Row.hits]

theorem reset : Statement .reset := by intro _; decide

end Sys2Proof.Laws.KeyFits
end

