-- ==== Sys2Proof/Tests/Slice0.lean ====
section
/-! SUPPORT. Tests of single transactions, their expected values taken from spec/95_test_vectors.md and from the tables of
spec/30_encoding.md, and for each statement a state and operands that meet its hypotheses. -/

namespace Sys2Proof.Tests

open Sys2Proof Sys2Proof.Machine

/-! ### Small states -/

/-- The state of an outcome that answers one. -/
def after : Outcome → Option State
  | .next t => some t
  | .fault _ => none
  | .refused _ => none

/-- The reset state with another parser. -/
def withParser (P : ParserState) : State := { State.reset with P := P }

/-- The reset state with the parser in a step, its packet and its counter given. -/
def parserIn (st : ParseStep) (pkt : Packet) (cnt : Byte) : State :=
  withParser { ParserState.reset with step := st, pkt := pkt, cnt := cnt }

/-- The reset state with port values placed. -/
def queued (rs : List Request) : State := { State.reset with inputs := rs }

/-- The marker recorded. -/
def startPkt : Packet := { zeroPkt with stx := 0x02#8 }

/-- FV-17's packet in progress: the worked example without its checksum. -/
def bodyW : Packet :=
  { stx := 0x02#8, id := 0xC1#8, length := 0x08#8, command := 0x12#8, sequence := 0x00#8,
    payload := [(0, 0x04#8), (1, 0x78#8)], checksum := 0x00#8 }

/-- `W`, the worked example (L1-2). -/
def pktW : Packet := { bodyW with checksum := 0x9F#8 }

/-- FV-18's packet in progress: the empty-payload frame without its checksum. -/
def bodyE : Packet := { startPkt with id := 0xC1#8, length := 0x06#8, command := 0x12#8 }

/-- L1-1's packet. -/
def pktE : Packet := { bodyE with checksum := 0xD3#8 }

/-- SV-3's packet, its length below 6. -/
def pktShort : Packet := { bodyE with length := 0x05#8 }

/-- The parser at the checksum byte of `W`. -/
def atChecksum : State := parserIn .data bodyW 0x02#8

/-- The serializer sending `W`, at an index. -/
def sending (idx : Byte) : State := { State.reset with S := { busy := true, idx := idx, buf := pktW, status := .none } }

/-- BV-1's inputs. -/
def inputsW : BuilderIn := builderInputs 0xC1#8 0x12#8 0x00#8 [0x04#8, 0x78#8]

/-- Inputs of a length that is in range at its boundary, and just out of it (BV-4, BV-5). -/
def inputsN (n : BitVec 9) : BuilderIn := { id := 0x10#8, command := 0x20#8, sequence := 0x30#8, n := n, data := [(1, 0x01#8)] }

/-! ### WellFormed refuses an ill-formed term for each check -/

theorem test_wf_illegalStep : WellFormed (.feedIllegalStep .data 0x02#8) = false := by decide
theorem test_wf_stxDiscard : WellFormed (.feedStxDiscard 0x02#8) = false := by decide
theorem test_wf_lengthInvalid : WellFormed (.feedLengthInvalid 0x06#8) = false := by decide
theorem test_wf_length : WellFormed (.feedLength 0x05#8) = false := by decide
theorem test_wf_serStart_length : WellFormed (.serStart false pktShort) = false := by decide
theorem test_wf_serStart_store :
    WellFormed (.serStart false { pktW with payload := [(1, 0x78#8), (0, 0x04#8)] }) = false := by decide
theorem test_wf_serStartInvalid_length : WellFormed (.serStartInvalid false pktW) = false := by decide
theorem test_wf_serStartInvalid_store :
    WellFormed (.serStartInvalid false { pktShort with payload := [(0, 0x00#8)] }) = false := by decide
theorem test_wf_build_n : WellFormed (.build (inputsN 250#9)) = false := by decide
theorem test_wf_build_store : WellFormed (.build { inputsN 1#9 with data := [(256, 0x01#8)] }) = false := by decide
theorem test_wf_buildInvalid_n : WellFormed (.buildInvalid (inputsN 249#9)) = false := by decide
theorem test_wf_buildInvalid_store :
    WellFormed (.buildInvalid { inputsN 250#9 with data := [(0, 0x00#8)] }) = false := by decide
theorem test_wf_accepts : WellFormed (.serStart true pktW) = true ∧ WellFormed (.build inputsW) = true := by decide

/-! ### Decoding, each key written out from R76, R81 and R82: fault, step code, byte -/

theorem test_decode_faulted : decode (.feed 0b1_101_10011111#12 none) = .ok (.feedFaulted .data 0x9F#8) := by decide
theorem test_decode_illegal6 : decode (.feed 0b0_110_00000010#12 none) = .ok (.feedIllegalStep .illegal6 0x02#8) := by decide
theorem test_decode_illegal7 : decode (.feed 0b0_111_11111111#12 none) = .ok (.feedIllegalStep .illegal7 0xFF#8) := by decide
theorem test_decode_stxAccept : decode (.feed 0b0_000_00000010#12 none) = .ok .feedStxAccept := by decide
theorem test_decode_stxDiscard : decode (.feed 0b0_000_00000011#12 none) = .ok (.feedStxDiscard 0x03#8) := by decide
theorem test_decode_id : decode (.feed 0b0_001_11000001#12 none) = .ok (.feedId 0xC1#8) := by decide
theorem test_decode_lengthInvalid :
    decode (.feed 0b0_010_00000101#12 none) = .ok (.feedLengthInvalid 0x05#8) := by decide
theorem test_decode_length : decode (.feed 0b0_010_00000110#12 none) = .ok (.feedLength 0x06#8) := by decide
theorem test_decode_command : decode (.feed 0b0_011_00010010#12 none) = .ok (.feedCommand 0x12#8) := by decide
theorem test_decode_sequence : decode (.feed 0b0_100_00000000#12 none) = .ok (.feedSequence 0x00#8) := by decide
theorem test_decode_dataStore :
    decode (.feed 0b0_101_00000100#12 (some .store)) = .ok (.feedDataStore 0x04#8) := by decide
theorem test_decode_dataChkOk :
    decode (.feed 0b0_101_10011111#12 (some .chkOk)) = .ok (.feedDataChkOk 0x9F#8) := by decide
theorem test_decode_dataChkBad :
    decode (.feed 0b0_101_10011110#12 (some .chkBad)) = .ok (.feedDataChkBad 0x9E#8) := by decide
theorem test_decode_idle : decode (.parserPort 0b00#2) = .ok .idle := by decide
theorem test_decode_serStart : decode (.serializer 0b011#3 pktW) = .ok (.serStart true pktW) := by decide
theorem test_decode_serStartInvalid :
    decode (.serializer 0b010#3 pktShort) = .ok (.serStartInvalid false pktShort) := by decide
theorem test_decode_serIdle : decode (.serializer 0b001#3 pktW) = .ok (.serIdle true) := by decide
theorem test_decode_serEmit : decode (.serializer 0b111#3 pktE) = .ok (.serEmit true) := by decide
theorem test_decode_serWait : decode (.serializer 0b100#3 pktW) = .ok (.serWait false) := by decide
theorem test_decode_build : decode (.builder (inputsN 0b011111001#9)) = .ok (.build (inputsN 249#9)) := by decide
theorem test_decode_buildInvalid :
    decode (.builder (inputsN 0b011111010#9)) = .ok (.buildInvalid (inputsN 250#9)) := by decide
theorem test_decode_reset : decode (.rst 0b1#1) = .ok .reset := by decide

theorem test_decode_rejects :
    decode (.feed 0x500#12 none) = .error .payloadSizeUndefined ∧ decode (.parserPort 0b01#2) = .error .feedNeedsItsKey ∧
      decode (.parserPort 0b11#2) = .error .preemptedByReset ∧ decode (.rst 0b0#1) = .error .resetNotRaised := by decide

/-- R76, in the order STX, ID, LENGTH, COMMAND, SEQUENCE, DATA. -/
theorem test_step_codes :
    [ParseStep.stx, .id, .length, .command, .sequence, .data].map ParseStep.code = [0#3, 1#3, 2#3, 3#3, 4#3, 5#3] := by
  decide

/-- R77. -/
theorem test_status_codes :
    [ParserStatus.none, .packet, .checksumMismatch, .invalidFrame].map ParserStatus.code = [0#2, 1#2, 2#2, 3#2] ∧
      SerStatus.accepted.code = 1#2 := by decide

/-! ### The checksum: 95_test_vectors.md section 2 -/

theorem test_chk_ck1 : chk [0xC1#8, 0x08#8, 0x12#8, 0x00#8, 0x04#8, 0x78#8] = 0x9F#8 := by decide
theorem test_chk_ck4 : chk [0xFF#8, 0x06#8, 0xFF#8, 0xFF#8] = 0xF9#8 := by decide
theorem test_chk_ck7 : chk [0x7F#8, 0x09#8, 0x80#8, 0xFE#8, 0xFF#8, 0x00#8, 0x02#8] = 0xFC#8 := by decide
theorem test_chk_ck8_wraps : chk [0xFD#8, 0x06#8, 0x00#8, 0x00#8] = 0x09#8 := by decide
theorem test_chk_ck9_collision : chk [0x00#8, 0x08#8, 0xD3#8, 0x00#8, 0x04#8, 0x78#8] = 0x9F#8 := by decide

/-! ### One step of the parser: 95_test_vectors.md section 3 -/

/-- FV-1. -/
theorem test_stxAccept :
    (after (step (queued [.rx 0 0x02#8]))).map (·.P) =
      some { ParserState.reset with step := .id, pkt := startPkt } := by decide
/-- FV-4. -/
theorem test_stxDiscard : (after (step (queued [.rx 0 0x03#8]))).map (·.P) = some ParserState.reset := by decide
/-- FV-5: the marker's value as an id. -/
theorem test_id :
    (after (exec (.feedId 0x02#8) (parserIn .id startPkt 0x00#8))).map (·.P) =
      some { ParserState.reset with step := .length, pkt := { startPkt with id := 0x02#8 } } := by decide
/-- FV-9: the byte is not re-read as a marker. -/
theorem test_lengthInvalid :
    (after (exec (.feedLengthInvalid 0x02#8) (parserIn .length { startPkt with id := 0x01#8 } 0x00#8))).map (·.P) =
      some { ParserState.reset with status := .invalidFrame } := by decide
/-- FV-10, the counter cleared. -/
theorem test_length :
    (after (exec (.feedLength 0x06#8) (parserIn .length { startPkt with id := 0xC1#8 } 0x07#8))).map (·.P) =
      some { ParserState.reset with step := .command, pkt := { startPkt with id := 0xC1#8, length := 0x06#8 } } := by decide
/-- FV-12. -/
theorem test_command :
    (after (exec (.feedCommand 0x02#8) (parserIn .command startPkt 0x00#8))).map (fun t => (t.P.step, t.P.pkt)) =
      some (.sequence, { startPkt with command := 0x02#8 }) := by decide
/-- FV-13 with another byte, so that a dropped store would show. -/
theorem test_sequence :
    (after (exec (.feedSequence 0x55#8) (parserIn .sequence startPkt 0x00#8))).map (fun t => (t.P.step, t.P.pkt)) =
      some (.data, { startPkt with sequence := 0x55#8 }) := by decide
/-- FV-22: a checksum value taken as data. -/
theorem test_dataStore :
    (after (step { parserIn .data { bodyW with payload := [(0, 0x04#8)] } 0x01#8 with inputs := [.rx 0 0x9F#8] })).map
        (fun t => (t.P.step, t.P.cnt, t.P.pkt.payload)) =
      some (.data, 0x02#8, [(0, 0x04#8), (1, 0x9F#8)]) := by decide
/-- FV-16: the last data byte of the longest frame. -/
theorem test_dataStore_last :
    (after (exec (.feedDataStore 0x5A#8) (parserIn .data { startPkt with length := 0xFF#8 } 0xF8#8))).map
        (fun t => (t.P.cnt, t.P.pkt.payload)) = some (0xF9#8, [(248, 0x5A#8)]) := by decide
/-- FV-17. -/
theorem test_dataChkOk :
    (after (step { atChecksum with inputs := [.rx 0 0x9F#8] })).map (·.P) =
      some { ParserState.reset with out := pktW, status := .packet } := by decide
/-- FV-20: a checksum byte equal to the marker. -/
theorem test_dataChkBad :
    (after (step { parserIn .data bodyE 0x00#8 with inputs := [.rx 0 0x02#8] })).map (·.P) =
      some { ParserState.reset with status := .checksumMismatch } := by decide
/-- FV-24. -/
theorem test_illegalStep :
    (after (step { parserIn .illegal7 pktW 0x01#8 with inputs := [.rx 0 0xFF#8] })).map (·.P) =
      some { ParserState.reset with step := .illegal7, pkt := pktW, cnt := 0x01#8, fault := true } := by decide
/-- FV-25. -/
theorem test_faulted :
    (after (step { withParser { ParserState.reset with fault := true } with inputs := [.rx 0 0x02#8] })).map (·.P) =
      some { ParserState.reset with fault := true } := by decide
/-- FV-29. -/
theorem test_idle :
    (after (exec .idle (parserIn .data bodyW 0x01#8))).map (·.P) = some (parserIn .data bodyW 0x01#8).P := by decide

/-! ### One step of the serializer and the builder: 95_test_vectors.md section 4 -/

/-- SV-2: nothing is written in the START step, the first byte is on offer after it. -/
theorem test_serStart :
    (after (step (queued [.ser 0 true pktW true]))).map (fun t => (t.S, offered t.S, wireBytes t.trace)) =
      some (⟨true, 0x00#8, pktW, .accepted⟩, some 0x02#8, []) := by decide
/-- SV-3. -/
theorem test_serStartInvalid :
    (after (step (queued [.ser 0 true pktShort false]))).map (·.S) =
      some { SerializerState.reset with status := .invalidFrame } := by decide
/-- SV-5. -/
theorem test_serIdle :
    (after (step (queued [.ser 0 false pktW true]))).map (·.S) = some SerializerState.reset := by decide
/-- SV-9: a request raised while a frame is sent is not taken. -/
theorem test_serEmit :
    (after (step { sending 0x02#8 with inputs := [.ser 0 true pktE true] })).map (fun t => (t.S, wireBytes t.trace)) =
      some (⟨true, 0x03#8, pktW, .none⟩, [0x08#8]) := by decide
/-- SV-7: the last byte. -/
theorem test_serEmit_last :
    (after (exec (.serEmit false) (sending 0x07#8))).map (fun t => (t.S, wireBytes t.trace)) =
      some (⟨false, 0x00#8, pktW, .none⟩, [0x9F#8]) := by decide
/-- SV-8. -/
theorem test_serWait :
    (after (exec (.serWait false) (sending 0x03#8))).map (fun t => (t.S, offered t.S, wireBytes t.trace)) =
      some ((sending 0x03#8).S, some 0x12#8, []) := by decide
/-- BV-1. -/
theorem test_build :
    (after (step (queued [.build inputsW]))).map (fun t => (t.bPkt, t.bErr)) = some (pktW, false) := by decide
/-- BV-7: a data byte at or above `b_n` is ignored. -/
theorem test_build_ignores_above :
    (after (exec (.build { builderInputs 0x01#8 0x01#8 0x01#8 [0xAA#8, 0xBB#8] with n := 1#9 }) State.reset)).map (·.bPkt) =
      some ⟨0x02#8, 0x01#8, 0x07#8, 0x01#8, 0x01#8, [(0, 0xAA#8)], 0xA3#8⟩ := by decide
/-- BV-5. -/
theorem test_buildInvalid :
    (after (step (queued [.build (inputsN 250#9)]))).map (fun t => (t.bPkt, t.bErr)) = some (zeroPkt, true) := by decide
/-- RV-3, with a fault as in RV-4. -/
theorem test_reset :
    (after (step { sending 0x03#8 with P := { atChecksum.P with fault := true, out := pktW }, inputs := [.rst] })).map
        (fun t => (t.P, t.S, wireBytes t.trace)) = some (ParserState.reset, SerializerState.reset, []) := by decide
/-- RV-2: the byte at the port is not consumed. -/
theorem test_reset_preempts :
    (after (blockStep ⟨true, true, 0x02#8, false, zeroPkt, false, inputsW⟩ 0 1 State.reset)).map (·.P.step) = some .stx := by
  decide
/-- 70_reset_and_hazards.md R245: no step where `open` fails, RESET first where it does not. -/
theorem test_boot_order :
    bootRequests (openPort [⟨3, true, false⟩] 3 9600) [.rx 0 0x02#8] = [] ∧
      bootRequests (openPort [⟨3, true, true⟩] 3 9600) [.rx 0 0x02#8] = [.rst, .rx 0 0x02#8] ∧
      discover [⟨3, true, true⟩, ⟨4, false, true⟩] = [3] := by decide
/-- L1-1 as a program line (R84): the frame of FRAME's expansion. -/
theorem test_frame_line :
    (Line.frame 0xC1#8 0x12#8 0x00#8 []).expand =
      some ([0x02#8, 0xC1#8, 0x06#8, 0x12#8, 0x00#8, 0xD3#8].map (.rx 0)) := by decide

/-! ### Witnesses: for each statement with hypotheses, a state and operands that meet them -/

/-- A good state in the middle of a frame. -/
def midFrame : State := parserIn .data { bodyW with payload := [(0, 0x04#8)] } 0x01#8

theorem reset_inv : BlockInv State.reset := ⟨⟨rfl, rfl, rfl⟩, .inl rfl, by decide, by decide⟩

theorem zeroFrom_W : ZeroFrom pktW.payload 2 := by
  intro i _ hi
  show memRead [(0, 0x04#8), (1, 0x78#8)] i = 0#8
  simp only [memRead]
  rw [if_neg (by omega), if_neg (by omega)]

theorem zeroFrom_mid : ZeroFrom midFrame.P.pkt.payload 1 := by
  intro i _ hi
  simp [midFrame, parserIn, withParser, memRead]
  omega

theorem atChecksum_inv : BlockInv atChecksum :=
  ⟨⟨rfl, by decide, by decide, zeroFrom_W⟩, .inl rfl, by decide, by decide⟩

theorem midFrame_inv : BlockInv midFrame :=
  ⟨⟨rfl, by decide, by decide, zeroFrom_mid⟩, .inl rfl, by decide, by decide⟩

/-- A state meets the invariant with other port values placed, if their stores are canonical. -/
theorem inv_with_inputs {s : State} (h : BlockInv s) (rs : List Request) (hr : ∀ r ∈ rs, r.wf = true) :
    BlockInv { s with inputs := rs } :=
  ⟨h.parser, h.emitted, h.serializer, h.stores.1, h.stores.2.1, h.stores.2.2.1, h.stores.2.2.2.1, hr⟩

theorem witness_StepRunsSelectedTransaction :
    ((queued [.rx 0 0x02#8]).inputs = .rx 0 0x02#8 :: [] ∧
      checkIssuer (.rx 0 0x02#8) State.reset = .ok { State.reset with reader := some 0 } ∧
      decode (sampleOf (.rx 0 0x02#8) { State.reset with reader := some 0 }) = .ok .feedStxAccept) ∧
    State.reset.inputs = [] := by decide

/-- In the reset state no port values select FEED.ID. -/
theorem witness_TransactionRunsExactlyWhereSelected :
    ¬ ∃ r, decode (sampleOf r State.reset) = .ok (.feedId 0xC1#8) := by
  rintro ⟨r, h⟩
  cases r with
  | rst => exact absurd h (by decide)
  | rx c v => revert h; revert v; show ∀ v : Byte, decodeFeed (feedKey ParserState.reset v) (dataCond ParserState.reset v) = _ → False; decide
  | rxIdle => exact absurd h (by decide)
  | ser c x p y =>
    cases x <;> cases y <;> cases hl : lengthOk p.length <;>
      simp [sampleOf, serKey, serKeyBits, State.reset, SerializerState.reset, decode, decodeSerializer, hl] at h
  | build b =>
    simp only [sampleOf, decode] at h
    split at h <;> cases h

theorem witness_StxAcceptRecordsMarker :
    State.reset.P.fault = false ∧ State.reset.P.step = .stx ∧ ParserInv State.reset.P := by
  exact ⟨rfl, rfl, rfl, rfl, rfl⟩
theorem witness_StxDiscardChangesOnlyStatus :
    State.reset.P.fault = false ∧ State.reset.P.step = .stx ∧ (0x03#8 : Byte) ≠ 0x02#8 := by decide
theorem witness_HeaderFieldsRecordAnyByte :
    (parserIn .id startPkt 0#8).P.fault = false ∧ (parserIn .id startPkt 0#8).P.step = .id ∧
      (parserIn .command startPkt 0#8).P.fault = false ∧ (parserIn .command startPkt 0#8).P.step = .command ∧
      (parserIn .sequence startPkt 0#8).P.fault = false ∧ (parserIn .sequence startPkt 0#8).P.step = .sequence ∧ (parserIn .sequence bodyE 0#8).P.pkt.length = 6#8 := by decide
theorem witness_LengthRecordedAndCounterCleared :
    (parserIn .length startPkt 0#8).P.fault = false ∧ (parserIn .length startPkt 0#8).P.step = .length ∧
      6 ≤ (0x06#8 : Byte).toNat ∧ 6 ≤ (0xFF#8 : Byte).toNat := by decide
theorem witness_LengthBelowSixRecovers :
    (parserIn .length startPkt 0#8).P.fault = false ∧ (parserIn .length startPkt 0#8).P.step = .length ∧
      (0x05#8 : Byte).toNat < 6 ∧ (0x00#8 : Byte).toNat < 6 := by decide
theorem witness_LengthCheckIgnoresCapacity : 249 ≤ 249 ∧ 249 ≤ Config.payloadCap := by decide
/-- The last data byte of the longest frame, and the first of the shortest that has one. -/
theorem witness_DataStoreWritesOneCell :
    (∀ s ∈ [parserIn .data { startPkt with length := 0xFF#8 } 0xF8#8, parserIn .data { startPkt with length := 0x07#8 } 0#8],
      s.P.fault = false ∧ s.P.step = .data ∧ 6 ≤ s.P.pkt.length.toNat ∧ s.P.cnt.toNat < s.P.pkt.length.toNat - 6 ∧
        Memory.wf s.P.pkt.payload = true) := by decide
theorem witness_GoodChecksumEmitsPacket :
    (parserIn .data bodyE 0#8).P.fault = false ∧ (parserIn .data bodyE 0#8).P.step = .data ∧
      6 ≤ bodyE.length.toNat ∧ bodyE.length.toNat - 6 ≤ (0#8 : Byte).toNat ∧ 0xD3#8 = chkp bodyE := by decide
/-- The invariant holds at the checksum byte. -/
theorem witness_GoodChecksumEmitsPacket_inv : ParserInv atChecksum.P ∧ 0x9F#8 = chkp atChecksum.P.pkt :=
  ⟨atChecksum_inv.parser, by decide⟩
theorem witness_BadChecksumDiscardsFrame :
    atChecksum.P.fault = false ∧ atChecksum.P.step = .data ∧ 6 ≤ atChecksum.P.pkt.length.toNat ∧
      atChecksum.P.pkt.length.toNat - 6 ≤ atChecksum.P.cnt.toNat ∧ 0x9E#8 ≠ chkp atChecksum.P.pkt := by decide
theorem witness_IllegalStepSetsFault :
    (parserIn .illegal6 zeroPkt 0#8).P.fault = false ∧ (parserIn .illegal6 zeroPkt 0#8).P.step.code = 0b110#3 ∧
      (parserIn .illegal7 zeroPkt 0#8).P.fault = false ∧ (parserIn .illegal7 zeroPkt 0#8).P.step.code = 0b111#3 := by decide
theorem witness_FaultedParserIgnoresBytes : (withParser { ParserState.reset with fault := true }).P.fault = true := by decide
theorem witness_SerStartLatchesPacket : State.reset.S.busy = false ∧ 6 ≤ pktE.length.toNat := by decide
theorem witness_ShortPacketIsNotSerialized : State.reset.S.busy = false ∧ pktShort.length.toNat < 6 := by decide
theorem witness_SerIdleAndWaitHoldState : State.reset.S.busy = false ∧ (sending 0x03#8).S.busy = true := by decide
/-- The last byte of a frame, and the one before it. -/
theorem witness_SerEmitHandsOverOneByte :
    (∀ s ∈ [sending 0x07#8, sending 0x06#8],
      s.S.busy = true ∧ 6 ≤ s.S.buf.length.toNat ∧ s.S.idx.toNat < s.S.buf.length.toNat) ∧
    (sending 0x07#8).S.idx.toNat + 1 = pktW.length.toNat ∧ (sending 0x06#8).S.idx.toNat + 1 ≠ pktW.length.toNat := by decide
theorem witness_SerBytesByOffset : 6 ≤ pktW.length.toNat ∧ 5 ≤ 6 ∧ 6 + 2 ≤ pktW.length.toNat := by decide
theorem witness_BuildGivesValidPacket : (inputsN 249#9).n.toNat ≤ 249 ∧ (inputsN 0#9).n.toNat ≤ 249 := by decide
theorem witness_OverlongBuildIsInvalid :
    250 ≤ (inputsN 250#9).n.toNat ∧ 250 ≤ (inputsN 511#9).n.toNat ∧ State.reset.S.busy = false := by decide
theorem witness_DecodeOfEncodeIsIdentity :
    WellFormed (.feedLength 0x06#8) = true ∧ WellFormed (.serStart true pktW) = true ∧
      WellFormed (.buildInvalid (inputsN 511#9)) = true := by decide
theorem witness_DecodedKeyLiesInItsRow :
    decode (.serializer 0b011#3 pktW) = .ok (.serStart true pktW) ∧ Memory.wf pktW.payload = true ∧
      decode (.builder inputsW) = .ok (.build inputsW) ∧ Memory.wf inputsW.data = true := by decide
/-- A store, with another cell, and a transaction that stores nothing. -/
theorem witness_PayloadWrittenOnlyByDataStore :
    (after (exec (.feedDataStore 0x78#8) midFrame)).isSome = true ∧ returnsToStx (.feedDataStore 0x78#8) = false ∧
      Memory.wf midFrame.P.pkt.payload = true ∧ 0 ≠ midFrame.P.cnt.toNat ∧
      (after (exec .idle midFrame)).isSome = true ∧ returnsToStx .idle = false := by decide
theorem witness_OutWrittenOnlyOnPacketOrReset :
    (after (exec (.feedDataChkOk 0x9F#8) atChecksum)).map (fun t => decide (t.P.out ≠ atChecksum.P.out)) = some true := by
  decide
theorem witness_FaultSetAndClearedOnlyByItsRows :
    ((after (exec (.feedIllegalStep .illegal6 0x02#8) (parserIn .illegal6 zeroPkt 0#8))).map (·.P.fault) = some true ∧
      (parserIn .illegal6 zeroPkt 0#8).P.fault = false) ∧
    (after (exec .reset (withParser { ParserState.reset with fault := true }))).map (·.P.fault) = some false := by decide
theorem witness_AgentsShareNoState :
    isFeed .feedStxAccept = true ∧ (after (exec .feedStxAccept State.reset)).isSome = true ∧
      (after (exec .idle State.reset)).isSome = true ∧
      isSer (.serEmit false) = true ∧ (after (exec (.serEmit false) (sending 0x07#8))).isSome = true ∧
      isBuild (.build inputsW) = true ∧ (after (exec (.build inputsW) State.reset)).isSome = true ∧
      (sending 0x07#8).P = State.reset.P ∧ atChecksum.S = State.reset.S := by decide
/-- One transaction for each kind of entry, with an event and without. -/
theorem witness_RecordShowsStatusAndEvent :
    (∀ x ∈ [(Instr.feedDataChkBad 0x9E#8, atChecksum), (.feedDataChkOk 0x9F#8, atChecksum), (.idle, atChecksum),
        (.feedLengthInvalid 0x05#8, parserIn .length startPkt 0#8), (.serStartInvalid false pktShort, State.reset),
        (.serEmit false, sending 0x07#8), (.build inputsW, State.reset), (.buildInvalid (inputsN 250#9), State.reset),
        (.reset, atChecksum)], (after (exec x.1 x.2)).isSome = true) := by decide
theorem witness_SecondIssuerIsRefused :
    (0 : Nat) ≠ 1 ∧ ({ queued [.rx 1 0x02#8] with reader := some 0 } : State).inputs = .rx 1 0x02#8 :: [] ∧
      ({ queued [.ser 1 true pktW false] with writer := some 0 } : State).inputs = .ser 1 true pktW false :: [] ∧
      State.reset.reader = none ∧ State.reset.writer = none ∧
      checkIssuer (.rx 1 0x02#8) State.reset = .ok { State.reset with reader := some 1 } ∧
      checkIssuer (.ser 1 true pktW false) State.reset = .ok { State.reset with writer := some 1 } := by decide
theorem witness_UndefinedPayloadSizeIsRefused :
    ({ parserIn .data pktShort 0#8 with inputs := [.rx 0 0x00#8] } : State).inputs = .rx 0 0x00#8 :: [] ∧
      (parserIn .data pktShort 0#8).reader = none ∧ (parserIn .data pktShort 0#8).P.fault = false ∧
      (parserIn .data pktShort 0#8).P.step = .data ∧ (parserIn .data pktShort 0#8).P.pkt.length.toNat < 6 := by decide

/-- The parser at the checksum byte of `W`, that byte at its port. -/
def emitting : State := { atChecksum with inputs := [.rx 0 0x9F#8] }

theorem emitting_inv : BlockInv emitting := inv_with_inputs atChecksum_inv _ (by decide)

theorem witness_BlockInvariantKeptByEveryStep : BlockInv emitting ∧ (after (step emitting)).isSome = true :=
  ⟨emitting_inv, by decide⟩
theorem witness_StoresStayCanonical : StoresWf emitting ∧ (after (step emitting)).isSome = true := by decide
theorem witness_ConfinedHostNeverStops : BlockInv emitting ∧ Confined 0 1 emitting := ⟨emitting_inv, by decide⟩
theorem witness_GoodRunNeverFaults : GoodRun emitting ∧ (after (step emitting)).isSome = true :=
  ⟨⟨emitting_inv, by decide⟩, by decide⟩
/-- A faulted run at a RESET. -/
theorem witness_FaultStaysRecorded :
    ({ queued [.rst] with trace := [.parser .none none true (some (.internalError .illegal6))] } : State).faulted = true ∧
      (after (step { queued [.rst] with trace := [.parser .none none true (some (.internalError .illegal6))] })).isSome
        = true := by decide
theorem witness_EmittedPacketsAreValid :
    BlockInv emitting ∧
      (after (step emitting)).map (·.trace) = some (.parser .packet (some pktW) false none :: emitting.trace) :=
  ⟨emitting_inv, by decide⟩
theorem witness_RunningAccumulatorEqualsChkp :
    (BlockInv { midFrame with inputs := [.rx 0 0x78#8] } ∧ AccMatches midFrame.P 0xE6#8 ∧
      (fetch { midFrame with inputs := [.rx 0 0x78#8] }).toOption.map (·.1) = some (.feedDataStore 0x78#8) ∧
      (after (step { midFrame with inputs := [.rx 0 0x78#8] })).isSome = true) ∧
    BlockInv atChecksum ∧ AccMatches atChecksum.P 0x9F#8 ∧ atChecksum.P.step = .data ∧ payloadOpen atChecksum.P = false := by
  refine ⟨⟨inv_with_inputs midFrame_inv _ (by decide), ?_, by decide, by decide⟩, atChecksum_inv, ?_, by decide, by decide⟩
  · show (0xE6#8 : Byte) = _
    decide
  · show (0x9F#8 : Byte) = _
    decide
theorem witness_SingleByteErrorsAreDetected :
    (0xC1#8 : Byte) ≠ 0xC0#8 ∧ ValidPacket pktW ∧ (0x9E#8 : Byte) ≠ pktW.checksum := by decide
/-- A frame with its checksum, and one with another. -/
theorem witness_FrameIsConsumedWhole :
    BlockInv State.reset ∧ State.reset.P.step = .stx ∧ State.reset.reader = none ∧ WellFormedPacket pktW ∧
      pktW.checksum = chkp pktW ∧ WellFormedPacket bodyW ∧ bodyW.checksum ≠ chkp bodyW := by
  exact ⟨reset_inv, by decide, by decide, by decide, by decide, by decide, by decide⟩
theorem witness_BuiltPacketRoundTrips :
    BlockInv State.reset ∧ State.reset.P.step = .stx ∧ State.reset.reader = none ∧ (inputsN 249#9).n.toNat ≤ 249 :=
  ⟨reset_inv, by decide, by decide, by decide⟩
theorem witness_NoMarkerNoFrame :
    State.reset.P.fault = false ∧ State.reset.P.step = .stx ∧ State.reset.reader = none ∧
      (0x02#8 : Byte) ∉ [0x00#8, 0x01#8, 0x03#8, 0x55#8, 0xC1#8, 0xFF#8, 0x9F#8] := by decide
/-- Five FEEDs of a frame from STX. -/
theorem witness_EmittedPacketWindow :
    State.reset.P.step = .stx ∧ BlockInv State.reset ∧
      Request.rst ∉ [0x02#8, 0xC1#8, 0x06#8, 0x12#8, 0x00#8].map (Request.rx 0) ∧
      feedCount ([0x02#8, 0xC1#8, 0x06#8, 0x12#8, 0x00#8].map (Request.rx 0)) ≤ 5 ∧
      (after (runRequests ([0x02#8, 0xC1#8, 0x06#8, 0x12#8, 0x00#8].map (Request.rx 0)) State.reset)).isSome = true :=
  ⟨rfl, reset_inv, by decide, by decide, by decide⟩
theorem witness_SerializerSendsWholeFrame :
    State.reset.S.busy = false ∧ 6 ≤ pktE.length.toNat ∧ State.reset.writer = none ∧
      SinkEvent.ioError ∉ SinkEvent.blocked :: List.replicate 6 SinkEvent.accepted ∧
      (SinkEvent.blocked :: List.replicate 6 SinkEvent.accepted).count .accepted = pktE.length.toNat := by decide
/-- A byte and an acceptance in the same step of the block. -/
theorem witness_BlockStepOrderIsFree :
    (after (blockStep ⟨false, true, 0x02#8, false, zeroPkt, true, inputsW⟩ 0 1 (sending 0x07#8))).isSome = true := by decide
theorem witness_ResetPreemptsOtherTransactions :
    (⟨true, true, 0x02#8, true, pktW, true, inputsW⟩ : Pins).rst = true := by decide
theorem witness_TimeoutsDoNotChangeParsing :
    (after (runRequests (readerLoop 0 [.byte 0x02#8, .timeout, .timeout, .byte 0xC1#8]) State.reset)).isSome = true ∧
      (after (runRequests ((deliveredBytes [.byte 0x02#8, .timeout, .timeout, .byte 0xC1#8]).map (.rx 0))
        State.reset)).isSome = true := by decide
theorem witness_MeaningfulEqualityIsEqualityOnZeroTails :
    6 ≤ pktW.length.toNat ∧ Memory.wf pktW.payload = true ∧ ZeroFrom pktW.payload (payloadSize pktW) :=
  ⟨by decide, by decide, zeroFrom_W⟩
theorem witness_FrameLineEmitsBuiltPacket :
    [0x04#8, 0x78#8].length ≤ 256 ∧ (Line.frame 0xC1#8 0x12#8 0x00#8 [0x04#8, 0x78#8]).expand.isSome = true ∧
      (List.replicate 250 (0x01#8 : Byte)).length ≤ 256 ∧
      builderErr (builderInputs 0xC1#8 0x12#8 0x00#8 (List.replicate 250 0x01#8)) = true := by
  refine ⟨by decide, by decide, by rw [List.length_replicate]; decide, ?_⟩
  simp only [builderErr, builderInputs, List.length_replicate]
  decide

end Sys2Proof.Tests
end

section
/-! The parser's FEED rows (spec/40_parser.md R101 to R104, R106 to R110): which transaction a byte selects in each step,
the next state of each selected row, and the statements about the rows. -/

namespace Sys2Proof.Machine

/-! ### How a parser transaction ends -/

/-- The end of a parser transaction touches the parser and the record alone. -/
theorem parserDone_keepsAllButParser (s : State) (P : ParserState) (e : Option Event) :
    KeepsAllButParser s (parserDone s P e) := ⟨rfl, rfl, rfl, rfl, rfl⟩

/-- The entry of a transaction that emits no packet and leaves the parser without a fault. -/
theorem parserDone_trace_of_ne_packet (s : State) {P : ParserState} (e : Option Event) (hfault : P.fault = false)
    (hstatus : P.status ≠ .packet) : (parserDone s P e).trace = .parser P.status none false e :: s.trace := by
  rw [parserDone_trace, shownPacket_of_ne hstatus, hfault]

/-- The recording of a header field, as the rows R101, R103, R106 and R107 state it. -/
theorem recordField_effect {s : State} (hfault : s.P.fault = false) (pkt : Packet) (next : ParseStep) :
    (recordField s pkt next).P = { s.P with pkt := pkt, step := next, status := .none } ∧
      (recordField s pkt next).trace = .parser .none none false none :: s.trace ∧
      KeepsAllButParser s (recordField s pkt next) :=
  ⟨rfl, parserDone_trace_of_ne_packet s none hfault (by simp), parserDone_keepsAllButParser ..⟩

/-- What a FEED returns where the status is not PACKET (R114). -/
theorem feedResult_eq_none {s : State} (h : s.P.status ≠ .packet) : s.feedResult = none := by
  simp [State.feedResult, State.pktValid, h]

/-- What a FEED returns where the status is PACKET (R114). -/
theorem feedResult_eq_some {s : State} (h : s.P.status = .packet) : s.feedResult = some s.P.out := by
  simp [State.feedResult, State.pktValid, h]

/-! ### The transaction a byte selects (spec/30_encoding.md R81) -/

/-- A byte is decoded on the key made of the parser's fault bit, its step and the byte itself. -/
theorem decode_rx (s : State) (ctx : Nat) (v : Byte) :
    decode (sampleOf (.rx ctx v) s) = decodeFeed (feedKeyBits s.P.fault s.P.step v) (dataCond s.P v) := rfl

section Decode

variable {s : State} (hfault : s.P.fault = false) (ctx : Nat)
include hfault

theorem decode_rx_stx_marker (hstep : s.P.step = .stx) :
    decode (sampleOf (.rx ctx Config.marker) s) = .ok .feedStxAccept := by
  rw [decode_rx, hfault, hstep, decodeFeed_key]
  rfl

theorem decode_rx_stx_of_ne (hstep : s.P.step = .stx) {v : Byte} (hv : v ≠ Config.marker) :
    decode (sampleOf (.rx ctx v) s) = .ok (.feedStxDiscard v) := by
  rw [decode_rx, hfault, hstep, decodeFeed_key]
  simp [hv]

theorem decode_rx_id (hstep : s.P.step = .id) (v : Byte) :
    decode (sampleOf (.rx ctx v) s) = .ok (.feedId v) := by
  rw [decode_rx, hfault, hstep, decodeFeed_key]
  rfl

theorem decode_rx_length (hstep : s.P.step = .length) {v : Byte} (hv : lengthRejected Config.payloadCap v = false) :
    decode (sampleOf (.rx ctx v) s) = .ok (.feedLength v) := by
  rw [decode_rx, hfault, hstep, decodeFeed_key]
  simp [hv]

theorem decode_rx_command (hstep : s.P.step = .command) (v : Byte) :
    decode (sampleOf (.rx ctx v) s) = .ok (.feedCommand v) := by
  rw [decode_rx, hfault, hstep, decodeFeed_key]
  rfl

theorem decode_rx_sequence (hstep : s.P.step = .sequence) (v : Byte) :
    decode (sampleOf (.rx ctx v) s) = .ok (.feedSequence v) := by
  rw [decode_rx, hfault, hstep, decodeFeed_key]
  rfl

end Decode

/-- No payload byte is due where the counter has reached the payload size. -/
theorem payloadOpen_eq_false_iff (P : ParserState) :
    payloadOpen P = false ↔ P.pkt.length.toNat - 6 ≤ P.cnt.toNat := by
  rw [← Bool.not_eq_true, payloadOpen_iff, Nat.not_lt]

theorem checksumAccepted_eq_false_iff (v : Byte) (p : Packet) : checksumAccepted v p = false ↔ v ≠ chkp p := by
  rw [← Bool.not_eq_true, checksumAccepted_iff]

/-- In DATA the row is chosen by the payload counter, then by the checksum. -/
theorem decode_rx_data {s : State} (h : parserAtData s = true) (ctx : Nat) (v : Byte) :
    decode (sampleOf (.rx ctx v) s) = .ok
      (if payloadOpen s.P then .feedDataStore v
        else if checksumAccepted v s.P.pkt then .feedDataChkOk v else .feedDataChkBad v) := by
  obtain ⟨hfault, hstep, hlength⟩ := (parserAtData_iff s).mp h
  rw [decode_rx, hfault, hstep, decodeFeed_key, dataCond, if_pos ((lengthOk_iff _).mpr hlength)]
  cases payloadOpen s.P
  case true => rfl
  case false => cases checksumAccepted v s.P.pkt <;> rfl

/-! ### The next state of each selected row -/

section Exec

variable {s : State}

theorem exec_feedStxAccept_next (h : parserAt s .stx = true) :
    exec .feedStxAccept s = .next (recordField s { s.P.pkt with stx := Config.marker } .id) := by
  simp [exec, execFeedStxAccept, h]

theorem exec_feedStxDiscard_next (h : parserAt s .stx = true) {v : Byte} (hv : v ≠ Config.marker) :
    exec (.feedStxDiscard v) s = .next (parserDone s (parserHold s.P) (some .framingDesync)) := by
  simp [exec, execFeedStxDiscard, h, hv]

theorem exec_feedId_next (h : parserAt s .id = true) (v : Byte) :
    exec (.feedId v) s = .next (recordField s { s.P.pkt with id := v } .length) := by
  simp [exec, execFeedId, h]

theorem exec_feedLength_next (h : parserAt s .length = true) {v : Byte}
    (hv : lengthRejected Config.payloadCap v = false) :
    exec (.feedLength v) s = .next (parserDone s
      { s.P with pkt := { s.P.pkt with length := v }, cnt := 0#8, step := .command, status := .none } none) := by
  simp [exec, execFeedLength, h, hv]

theorem exec_feedCommand_next (h : parserAt s .command = true) (v : Byte) :
    exec (.feedCommand v) s = .next (recordField s { s.P.pkt with command := v } .sequence) := by
  simp [exec, execFeedCommand, h]

theorem exec_feedSequence_next (h : parserAt s .sequence = true) (v : Byte) :
    exec (.feedSequence v) s = .next (recordField s { s.P.pkt with sequence := v } .data) := by
  simp [exec, execFeedSequence, h]

theorem exec_feedDataStore_next (h : parserAtData s = true) (hopen : payloadOpen s.P = true) (v : Byte) :
    exec (.feedDataStore v) s = .next (parserDone s
      { s.P with
        pkt := { s.P.pkt with payload := memWrite s.P.pkt.payload s.P.cnt.toNat v }
        cnt := s.P.cnt + 1#8
        status := .none } none) := by
  simp [exec, execFeedDataStore, h, hopen]

theorem exec_feedDataChkOk_next (h : parserAtData s = true) (hclosed : payloadOpen s.P = false) {v : Byte}
    (hchk : checksumAccepted v s.P.pkt = true) :
    exec (.feedDataChkOk v) s =
      .next (parserDone s (returnToStx { s.P with out := { s.P.pkt with checksum := v } } .packet) none) := by
  simp [exec, execFeedDataChkOk, h, hclosed, hchk]

theorem exec_feedDataChkBad_next (h : parserAtData s = true) (hclosed : payloadOpen s.P = false) {v : Byte}
    (hchk : checksumAccepted v s.P.pkt = false) :
    exec (.feedDataChkBad v) s =
      .next (recoverFrom s (.checksumMismatch v (chkp s.P.pkt)) .checksumMismatch) := by
  simp [exec, execFeedDataChkBad, h, hclosed, hchk]

end Exec

/-! ### Facts about the DATA step -/

/-- While a payload byte is due the counter does not wrap (spec/20_memory.md R52). -/
theorem cnt_succ_toNat_of_payloadOpen {P : ParserState} (h : payloadOpen P = true) :
    (P.cnt + 1#8).toNat = P.cnt.toNat + 1 := by
  have hcnt : P.cnt.toNat < P.pkt.length.toNat - 6 := (payloadOpen_iff P).mp h
  have hlength : P.pkt.length.toNat < 256 := P.pkt.length.isLt
  have hnowrap : P.cnt.toNat + 1 < 256 := by omega
  rw [BitVec.toNat_add]
  exact Nat.mod_eq_of_lt hnowrap

/-- The parser's invariant in DATA (R115 e, f). -/
theorem ParserInv.data {P : ParserState} (h : ParserInv P) (hstep : P.step = .data) :
    P.cnt.toNat ≤ payloadSize P.pkt ∧ WellFormedPacket P.pkt ∧ ZeroFrom P.pkt.payload P.cnt.toNat := by
  have hcases := h.2
  rw [hstep] at hcases
  exact hcases

/-- At the checksum byte of a good state the whole payload has come. -/
theorem ParserInv.cnt_eq_payloadSize {P : ParserState} (h : ParserInv P) (hstep : P.step = .data)
    (hclosed : payloadOpen P = false) : P.cnt.toNat = payloadSize P.pkt :=
  Nat.le_antisymm (h.data hstep).1 ((payloadOpen_eq_false_iff P).mp hclosed)

/-! ### The statements -/

/-- Settles O5: the marker is recorded like a header field; the counter is 0 by the invariant's STX case. -/
theorem stxAcceptRecordsMarker : Obligations.StxAcceptRecordsMarker := by
  intro s ctx hfault hstep
  have hkey : feedKey s.P 0x02#8 = 0x002#12 := by
    rw [feedKey, hfault, hstep]
    rfl
  obtain ⟨hP, htrace, hkeep⟩ := recordField_effect hfault { s.P.pkt with stx := Config.marker } .id
  refine ⟨hkey, decode_rx_stx_marker hfault ctx hstep, _,
    exec_feedStxAccept_next ((parserAt_iff s .stx).mpr ⟨hfault, hstep⟩), hP, fun hinv => ?_, htrace, hkeep⟩
  have hstx := hinv.2
  rw [hstep] at hstx
  exact hstx.2

/-- Settles O6: outside the marker the row holds the parser and records FramingDesync. -/
theorem stxDiscardChangesOnlyStatus : Obligations.StxDiscardChangesOnlyStatus := fun s ctx _ hfault hstep hv =>
  ⟨decode_rx_stx_of_ne hfault ctx hstep hv, _,
    exec_feedStxDiscard_next ((parserAt_iff s .stx).mpr ⟨hfault, hstep⟩) hv, rfl, hstep,
    parserDone_trace_of_ne_packet s _ hfault (by simp), parserDone_keepsAllButParser ..⟩

/-- Settles O7, each field by the recording they share. -/
theorem headerFieldsRecordAnyByte : Obligations.HeaderFieldsRecordAnyByte := by
  intro s ctx v hfault
  refine ⟨fun hstep => ?_, fun hstep => ?_, fun hstep => ?_⟩
  · exact ⟨decode_rx_id hfault ctx hstep v, _, exec_feedId_next ((parserAt_iff s _).mpr ⟨hfault, hstep⟩) v,
      recordField_effect hfault _ _⟩
  · exact ⟨decode_rx_command hfault ctx hstep v, _, exec_feedCommand_next ((parserAt_iff s _).mpr ⟨hfault, hstep⟩) v,
      recordField_effect hfault _ _⟩
  · obtain ⟨hP, htrace, hkeep⟩ := recordField_effect hfault { s.P.pkt with sequence := v } .data
    refine ⟨decode_rx_sequence hfault ctx hstep v, _,
      exec_feedSequence_next ((parserAt_iff s _).mpr ⟨hfault, hstep⟩) v, hP, fun hsix => ?_, htrace, hkeep⟩
    rw [payloadOpen_eq_false_iff, hP, hsix]
    exact Nat.zero_le _

/-- Settles O8: at this block's capacity a LENGTH of 6 or more passes the length check. -/
theorem lengthRecordedAndCounterCleared : Obligations.LengthRecordedAndCounterCleared := by
  intro s ctx v hfault hstep hv
  have haccepted : lengthRejected Config.payloadCap v = false := by
    rw [lengthRejected_payloadCap, (lengthOk_iff v).mpr hv]
    rfl
  exact ⟨decode_rx_length hfault ctx hstep haccepted, _,
    exec_feedLength_next ((parserAt_iff s _).mpr ⟨hfault, hstep⟩) haccepted, rfl,
    parserDone_trace_of_ne_packet s none hfault (by simp), parserDone_keepsAllButParser ..⟩

/-- Settles O11: the cell is that of the read-after-write law, and the counter stays below the payload size. -/
theorem dataStoreWritesOneCell : Obligations.DataStoreWritesOneCell := by
  intro s ctx v hfault hstep hlength hcnt
  have hdata : parserAtData s = true := (parserAtData_iff s).mpr ⟨hfault, hstep, hlength⟩
  have hopen : payloadOpen s.P = true := (payloadOpen_iff s.P).mpr hcnt
  have hdecode : decode (sampleOf (.rx ctx v) s) = .ok (.feedDataStore v) := by
    rw [decode_rx_data hdata, if_pos hopen]
  exact ⟨hdecode, _, exec_feedDataStore_next hdata hopen v, rfl, cnt_succ_toNat_of_payloadOpen hopen,
    fun hwf a => memRead_memWrite_wf hwf s.P.cnt.toNat v a,
    parserDone_trace_of_ne_packet s none hfault (by simp), parserDone_keepsAllButParser ..⟩

/-- Settles O12: with the payload complete the accepted byte emits; under the invariant the counter is the payload size,
so the zero tail above the counter is the one above the size. -/
theorem goodChecksumEmitsPacket : Obligations.GoodChecksumEmitsPacket := by
  intro s ctx v hfault hstep hlength hcnt hv
  have hdata : parserAtData s = true := (parserAtData_iff s).mpr ⟨hfault, hstep, hlength⟩
  have hclosed : payloadOpen s.P = false := (payloadOpen_eq_false_iff s.P).mpr hcnt
  have hchk : checksumAccepted v s.P.pkt = true := (checksumAccepted_iff v s.P.pkt).mpr hv
  have hdecode : decode (sampleOf (.rx ctx v) s) = .ok (.feedDataChkOk v) := by
    simp [decode_rx_data hdata, hclosed, hchk]
  refine ⟨hdecode, _, exec_feedDataChkOk_next hdata hclosed hchk, rfl, rfl, feedResult_eq_some rfl, fun x => ?_,
    fun hinv => ?_, ?_, parserDone_keepsAllButParser ..⟩
  · rw [chkp_with_stx, hv]
  · have hsize : s.P.cnt.toNat = payloadSize s.P.pkt := hinv.cnt_eq_payloadSize hstep hclosed
    obtain ⟨-, -, hzero⟩ := hinv.data hstep
    rw [hsize] at hzero
    exact ⟨hsize, hzero⟩
  · rw [parserDone_trace, shownPacket_of_eq (returnToStx_status _ _), returnToStx_fault, hfault]
    rfl

/-- Settles O13: with the payload complete any byte but CHKP goes through the recovery entry. -/
theorem badChecksumDiscardsFrame : Obligations.BadChecksumDiscardsFrame := by
  intro s ctx v hfault hstep hlength hcnt hv
  have hdata : parserAtData s = true := (parserAtData_iff s).mpr ⟨hfault, hstep, hlength⟩
  have hclosed : payloadOpen s.P = false := (payloadOpen_eq_false_iff s.P).mpr hcnt
  have hchk : checksumAccepted v s.P.pkt = false := (checksumAccepted_eq_false_iff v s.P.pkt).mpr hv
  have hdecode : decode (sampleOf (.rx ctx v) s) = .ok (.feedDataChkBad v) := by
    simp [decode_rx_data hdata, hclosed, hchk]
  exact ⟨hdecode, _, exec_feedDataChkBad_next hdata hclosed hchk, rfl, feedResult_eq_none (by simp [recoverFrom]),
    parserDone_trace_of_ne_packet s _ hfault (by simp), parserDone_keepsAllButParser ..⟩

end Sys2Proof.Machine
end

section
/-! The checksum (spec/41_checksum.md). -/

namespace Sys2Proof.Machine

/-- One byte of the checksum on numbers: the XOR is inside the wrapping increment (spec/41_checksum.md R150). -/
theorem chkStep_toNat (acc b : Byte) : (chkStep acc b).toNat = ((acc.toNat ^^^ b.toNat) + 1) % 256 := by
  simp [chkStep, BitVec.toNat_add, BitVec.toNat_xor]

/-- Settles O42: the seed is the marker, and CHK takes its last byte by one `chkStep`. -/
theorem checksumFoldsXorThenIncrement : Obligations.ChecksumFoldsXorThenIncrement := by
  refine ⟨chk_nil, fun bs b => ?_⟩
  rw [chk_append, chkStep_toNat]

end Sys2Proof.Machine
end

section
/-! The serializer (spec/42_serializer.md R170, R171, R177 to R179, R181): the bytes of SER(p) offset by offset, the byte
on offer, which transaction a serializer's port values select, and the statements about them. -/

namespace Sys2Proof.Machine

/-! ### The bytes of SER(p) (R170) -/

theorem payloadBytes_getElem?_of_lt (m : Memory) {k i : Nat} (h : i < k) :
    (payloadBytes m k)[i]? = some (memRead m i) := by
  have hi : i < (payloadBytes m k).length := by rwa [payloadBytes_length]
  rw [List.getElem?_eq_getElem hi, payloadBytes_getElem]

theorem serialize_of_lengthOk {p : Packet} (h : lengthOk p.length = true) : serialize p = some (serBytes p) := by
  rw [serialize, if_pos h]

theorem serialize_of_not_lengthOk {p : Packet} (h : lengthOk p.length = false) : serialize p = none := by
  simp [serialize, h]

/-- The five header bytes come before the payload and the checksum. -/
theorem serBytes_eq_header (p : Packet) : serBytes p =
    p.stx :: p.id :: p.length :: p.command :: p.sequence ::
      (payloadBytes p.payload (payloadSize p) ++ [p.checksum]) := rfl

theorem serBytes_length_eq_payloadSize (p : Packet) : (serBytes p).length = payloadSize p + 6 := by
  simp [serBytes_eq, bodyBytes_length]

theorem serBytes_getElem?_payload (p : Packet) {j : Nat} (h : j < payloadSize p) :
    (serBytes p)[j + 5]? = some (memRead p.payload j) := by
  have hj : j < (payloadBytes p.payload (payloadSize p)).length := by rwa [payloadBytes_length]
  simp only [serBytes_eq_header, List.getElem?_cons_succ]
  rw [List.getElem?_append_left hj, payloadBytes_getElem?_of_lt _ h]

theorem serBytes_getElem?_checksum (p : Packet) : (serBytes p)[payloadSize p + 5]? = some p.checksum := by
  simp [serBytes_eq_header]

/-- Settles O21: the bytes from offset 5 on are the payload's, and the checksum stands behind its last one. -/
theorem serBytesByOffset : Obligations.SerBytesByOffset := by
  intro p hlength
  have hsize : p.length.toNat = payloadSize p + 6 := by
    rw [payloadSize_eq, Nat.sub_add_cancel hlength]
  refine ⟨serialize_of_lengthOk ((lengthOk_iff _).mpr hlength), ?_, rfl, rfl, rfl, rfl, rfl, fun i hlo hhi => ?_, ?_⟩
  · rw [serBytes_length_eq_payloadSize, hsize]
  · have hj : i - 5 < payloadSize p := by omega
    rw [← serBytes_getElem?_payload p hj, Nat.sub_add_cancel hlo]
  · rw [hsize]
    exact serBytes_getElem?_checksum p

/-! ### The byte on offer -/

/-- An idle serializer offers no byte. -/
theorem offered_of_idle {S : SerializerState} (h : S.busy = false) : offered S = none := by
  simp [offered, h]

/-- A busy serializer with a packet that SER is defined on offers the byte at its index. -/
theorem offered_of_busy {S : SerializerState} (hbusy : S.busy = true) (hlength : lengthOk S.buf.length = true) :
    offered S = (serBytes S.buf)[S.idx.toNat]? := by
  simp [offered, hbusy, hlength]

/-- Holding the serializer keeps the byte on offer. -/
@[simp] theorem offered_serializerHold (S : SerializerState) : offered (serializerHold S) = offered S := rfl

theorem txByte_of_offered {s : State} {v : Byte} (h : offered s.S = some v) : s.txByte = v := by
  rw [State.txByte, h, Option.getD_some]

/-! ### The transaction that a serializer's port values select (spec/30_encoding.md R82) -/

/-- The row is chosen by the busy bit, then by `tx_ready` or by the request and its packet's length. -/
theorem decode_ser (s : State) (ctx : Nat) (valid : Bool) (p : Packet) (ready : Bool) :
    decode (sampleOf (.ser ctx valid p ready) s) = .ok
      (if s.S.busy then (if ready then .serEmit valid else .serWait valid)
        else if valid then (if lengthOk p.length then .serStart ready p else .serStartInvalid ready p)
        else .serIdle ready) :=
  congrArg Except.ok (decodeSerializer_key s.S.busy valid ready p)

/-! ### The next state of each selected row -/

/-- The end of a serializer transaction touches the serializer and the record alone. -/
theorem serializerDone_keepsAllButSerializer (s : State) (S : SerializerState) (w : Option Byte) (e : Option Event) :
    KeepsAllButSerializer s (serializerDone s S w e) := ⟨rfl, rfl, rfl, rfl, rfl⟩

section Exec

variable {s : State}

theorem exec_serStart_next (hidle : s.S.busy = false) {p : Packet} (hlength : lengthOk p.length = true)
    (ready : Bool) :
    exec (.serStart ready p) s =
      .next (serializerDone s { busy := true, idx := 0#8, buf := p, status := .accepted } none none) := by
  simp [exec, execSerStart, hidle, hlength]

theorem exec_serStartInvalid_next (hidle : s.S.busy = false) {p : Packet} (hlength : lengthOk p.length = false)
    (ready : Bool) :
    exec (.serStartInvalid ready p) s = .next
      (serializerDone s { s.S with status := .invalidFrame } none (some (.invalidFrameSerialize p.length))) := by
  simp [exec, execSerStartInvalid, hidle, hlength]

theorem exec_serIdle_next (hidle : s.S.busy = false) (ready : Bool) :
    exec (.serIdle ready) s = .next (serializerDone s (serializerHold s.S) none none) := by
  simp [exec, execSerIdle, hidle]

theorem exec_serWait_next (hbusy : s.S.busy = true) (valid : Bool) :
    exec (.serWait valid) s = .next (serializerDone s (serializerHold s.S) none none) := by
  simp [exec, execSerWait, hbusy]

end Exec

/-! ### The statements about the transactions -/

/-- Settles O17: the latched packet has the length SER asks for, so the byte at index 0 is on offer. -/
theorem serStartLatchesPacket : Obligations.SerStartLatchesPacket := by
  intro s ctx ready p hidle hsix
  have hlength : lengthOk p.length = true := (lengthOk_iff _).mpr hsix
  have hdecode : decode (sampleOf (.ser ctx true p ready) s) = .ok (.serStart ready p) := by
    simp [decode_ser, hidle, hlength]
  have hoffered : offered { busy := true, idx := 0#8, buf := p, status := .accepted } = some p.stx := by
    rw [offered_of_busy rfl hlength]
    rfl
  exact ⟨hdecode, _, exec_serStart_next hidle hlength ready, rfl, rfl, txByte_of_offered hoffered, rfl,
    serializerDone_keepsAllButSerializer ..⟩

/-- Settles O18: the packet fails the length check, and the serializer stays idle. -/
theorem shortPacketIsNotSerialized : Obligations.ShortPacketIsNotSerialized := by
  intro s ctx ready p hidle hshort
  have hlength : lengthOk p.length = false := (lengthOk_eq_false _).mpr hshort
  have hdecode : decode (sampleOf (.ser ctx true p ready) s) = .ok (.serStartInvalid ready p) := by
    simp [decode_ser, hidle, hlength]
  refine ⟨serialize_of_not_lengthOk hlength, hdecode, _, exec_serStartInvalid_next hidle hlength ready, rfl, ?_,
    offered_of_idle hidle, rfl, serializerDone_keepsAllButSerializer ..⟩
  simp [State.serReady, hidle]

/-- Settles O19: both rows hold the serializer. -/
theorem serIdleAndWaitHoldState : Obligations.SerIdleAndWaitHoldState := by
  refine fun s ctx x p => ⟨fun hidle => ?_, fun hbusy => ?_⟩
  · have hdecode : decode (sampleOf (.ser ctx false p x) s) = .ok (.serIdle x) := by simp [decode_ser, hidle]
    exact ⟨hdecode, _, exec_serIdle_next hidle x, rfl, hidle, rfl, serializerDone_keepsAllButSerializer ..⟩
  · have hdecode : decode (sampleOf (.ser ctx x p false) s) = .ok (.serWait x) := by simp [decode_ser, hbusy]
    exact ⟨hdecode, _, exec_serWait_next hbusy x, rfl, offered_serializerHold s.S, rfl,
      serializerDone_keepsAllButSerializer ..⟩

end Sys2Proof.Machine
end

section
/-! The decoder and its encoder (spec/30_encoding.md R76, R81, R82): every key is the key of its own fields, what a sample
decodes to, and the statements about the encodings. -/

namespace Sys2Proof

/-- Settles O24: the fields come back from the keys, and the row conditions choose between the rows of one key. -/
theorem decodeOfEncodeIsIdentity : Obligations.DecodeOfEncodeIsIdentity := by
  intro i hwf
  cases i with
  | feedIllegalStep st v => cases st <;> simp_all [WellFormed, ParseStep.legal, encode, decode, decodeFeed_key]
  | feedStxDiscard v =>
    have hv : v ≠ Config.marker := of_decide_eq_true hwf
    simp [encode, decode, decodeFeed_key, hv]
  | feedLengthInvalid v =>
    have hv : Machine.lengthRejected Config.payloadCap v = true := hwf
    simp [encode, decode, decodeFeed_key, hv]
  | feedLength v =>
    have hv : Machine.lengthRejected Config.payloadCap v = false := by simpa [WellFormed] using hwf
    simp [encode, decode, decodeFeed_key, hv]
  | serStart ready p =>
    have hlength : Machine.lengthOk p.length = true := (Bool.and_eq_true_iff.mp hwf).1
    simp [encode, decode, decodeSerializer_key, hlength]
  | serStartInvalid ready p =>
    have hlength : Machine.lengthOk p.length = false := by
      simpa using (Bool.and_eq_true_iff.mp hwf).1
    simp [encode, decode, decodeSerializer_key, hlength]
  | build b =>
    have hfits : Machine.buildFits b.n = true := (Bool.and_eq_true_iff.mp hwf).1
    simp [encode, decode, hfits]
  | buildInvalid b =>
    have hfits : Machine.buildFits b.n = false := by
      simpa using (Bool.and_eq_true_iff.mp hwf).1
    simp [encode, decode, hfits]
  | serIdle | serEmit | serWait => simp [encode, decode, decodeSerializer_key]
  | idle | reset => rfl
  | _ => simp [encode, decode, decodeFeed_key]

/-- Every FEED key is the key of a fault bit, a step and a byte (R81). -/
theorem exists_feedKeyBits (key : BitVec 12) : ∃ fault st v, key = feedKeyBits fault st v := by
  have hbit : ∀ c : BitVec 1, ∃ fault, c = BitVec.ofBool fault := by decide
  obtain ⟨fault, hfault⟩ := hbit (key.extractLsb' 11 1)
  refine ⟨fault, ParseStep.ofCode (key.extractLsb' 8 3), key.extractLsb' 0 8, ?_⟩
  rw [feedKeyBits, ParseStep.code_ofCode, ← hfault,
    BitVec.extractLsb'_append_extractLsb'_eq_extractLsb' (x := key) (start₁ := 8) (len₁ := 3) rfl,
    BitVec.extractLsb'_append_extractLsb'_eq_extractLsb' (x := key) (start₁ := 0) (len₁ := 8) rfl]
  exact BitVec.extractLsb'_eq_self.symm

/-- Every serializer key is the key of its three bits (R82). -/
theorem exists_serKeyBits (key : BitVec 3) : ∃ busy serValid txReady, key = serKeyBits busy serValid txReady := by
  revert key
  decide

/-- What a FEED key decodes to is a well-formed transaction in whose row the key lies. -/
theorem decode_feed_ok {key : BitVec 12} {cond : Option DataCond} {i : Instr} (h : decode (.feed key cond) = .ok i) :
    i.row.hits key.toNat = true ∧ WellFormed i = true := by
  obtain ⟨fault, st, v, rfl⟩ := exists_feedKeyBits key
  rw [decode, decodeFeed_key] at h
  cases fault with
  | true => cases h; exact ⟨Laws.KeyFits.feedFaulted st v rfl, rfl⟩
  | false =>
    cases st with
    | stx =>
      by_cases hv : v = Config.marker
      · subst hv
        cases h
        exact ⟨Laws.KeyFits.feedStxAccept rfl, rfl⟩
      · simp only [hv] at h
        cases h
        exact ⟨Laws.KeyFits.feedStxDiscard v (decide_eq_true hv), decide_eq_true hv⟩
    | id => cases h; exact ⟨Laws.KeyFits.feedId v rfl, rfl⟩
    | length =>
      cases hv : Machine.lengthRejected Config.payloadCap v with
      | true => simp only [hv] at h; cases h; exact ⟨Laws.KeyFits.feedLengthInvalid v hv, hv⟩
      | false =>
        have hwf : WellFormed (.feedLength v) = true := by rw [WellFormed, hv]; rfl
        simp only [hv] at h; cases h; exact ⟨Laws.KeyFits.feedLength v hwf, hwf⟩
    | command => cases h; exact ⟨Laws.KeyFits.feedCommand v rfl, rfl⟩
    | sequence => cases h; exact ⟨Laws.KeyFits.feedSequence v rfl, rfl⟩
    | data =>
      cases cond with
      | none => cases h
      | some c =>
        cases c with
        | store => cases h; exact ⟨Laws.KeyFits.feedDataStore v rfl, rfl⟩
        | chkOk => cases h; exact ⟨Laws.KeyFits.feedDataChkOk v rfl, rfl⟩
        | chkBad => cases h; exact ⟨Laws.KeyFits.feedDataChkBad v rfl, rfl⟩
    | illegal6 => cases h; exact ⟨Laws.KeyFits.feedIllegalStep .illegal6 v rfl, rfl⟩
    | illegal7 => cases h; exact ⟨Laws.KeyFits.feedIllegalStep .illegal7 v rfl, rfl⟩

/-- What a serializer key decodes to is a transaction in whose row the key lies; it is well-formed if its packet's store is
canonical. -/
theorem decode_serializer_ok {key : BitVec 3} {p : Packet} {i : Instr} (h : decode (.serializer key p) = .ok i) :
    i.row.hits key.toNat = true ∧ (Memory.wf p.payload = true → WellFormed i = true) := by
  obtain ⟨busy, valid, ready, rfl⟩ := exists_serKeyBits key
  rw [decode, decodeSerializer_key] at h
  cases busy with
  | true =>
    cases ready with
    | true => obtain rfl : .serEmit valid = i := Except.ok.inj h; exact ⟨Laws.KeyFits.serEmit valid rfl, fun _ => rfl⟩
    | false => obtain rfl : .serWait valid = i := Except.ok.inj h; exact ⟨Laws.KeyFits.serWait valid rfl, fun _ => rfl⟩
  | false =>
    cases valid with
    | false => obtain rfl : .serIdle ready = i := Except.ok.inj h; exact ⟨Laws.KeyFits.serIdle ready rfl, fun _ => rfl⟩
    | true =>
      cases hlength : Machine.lengthOk p.length with
      | true =>
        obtain rfl : .serStart ready p = i := by simpa [hlength] using h
        exact ⟨Laws.KeyFits.serStart ready { p with payload := [] } (by rw [WellFormed, hlength]; rfl), fun hwf => by
          rw [WellFormed, hlength, hwf]; rfl⟩
      | false =>
        obtain rfl : .serStartInvalid ready p = i := by simpa [hlength] using h
        exact ⟨Laws.KeyFits.serStartInvalid ready { p with payload := [] } (by rw [WellFormed, hlength]; rfl), fun hwf => by
          rw [WellFormed, hlength, hwf]; rfl⟩

/-- What the builder's inputs decode to lies in its row, whose mask is empty; it is well-formed if the data is canonical. -/
theorem decode_builder_ok {b : BuilderIn} {i : Instr} (h : decode (.builder b) = .ok i) :
    i.row.hits b.n.toNat = true ∧ (Memory.wf b.data = true → WellFormed i = true) := by
  rw [decode] at h
  cases hfits : Machine.buildFits b.n <;> simp only [hfits] at h <;> cases h <;>
    exact ⟨decide_eq_true (Nat.and_zero _), fun hwf => by simp [WellFormed, hfits, hwf]⟩

/-- Every FEED key with a DATA condition decodes. -/
theorem exists_decode_feed (key : BitVec 12) (cond : DataCond) : ∃ i, decode (.feed key (some cond)) = .ok i := by
  obtain ⟨fault, st, v, rfl⟩ := exists_feedKeyBits key
  rw [decode, decodeFeed_key]
  cases fault with
  | true => exact ⟨_, rfl⟩
  | false =>
    cases st with
    | data => cases cond <;> exact ⟨_, rfl⟩
    | _ => exact ⟨_, rfl⟩

/-- Settles O25, agent by agent. -/
theorem decodedKeyLiesInItsRow : Obligations.DecodedKeyLiesInItsRow := by
  refine ⟨fun x i h => ?_, exists_decode_feed⟩
  cases x with
  | feed key cond =>
    obtain ⟨hrow, hwf⟩ := decode_feed_ok h
    exact ⟨hrow, fun _ _ => hwf⟩
  | parserPort key =>
    simp only [decode] at h
    split at h
    next hkey => subst hkey; cases h; exact ⟨rfl, fun _ _ => rfl⟩
    next => split at h <;> cases h
  | serializer key p =>
    obtain ⟨hrow, hwf⟩ := decode_serializer_ok h
    exact ⟨hrow, fun hp _ => hwf (hp key p rfl)⟩
  | builder b =>
    obtain ⟨hrow, hwf⟩ := decode_builder_ok h
    exact ⟨hrow, fun _ hb => hwf (hb b rfl)⟩
  | rst key =>
    simp only [decode] at h
    split at h
    next hkey => subst hkey; cases h; exact ⟨rfl, fun _ _ => rfl⟩
    next => cases h

/-- Settles O26. The rows' conditions on `b_n` are those of its two boundary values. -/
theorem specKeysDecodeToTheirRows : Obligations.SpecKeysDecodeToTheirRows := by
  refine ⟨by decide, by decide, by decide, by decide, by decide, by decide, by decide, by decide, by decide, by decide,
    fun b hn => ?_, fun b hn => ?_, by decide⟩
  · have hfits : Machine.buildFits b.n = true := by rw [hn]; rfl
    simp [decode, hfits]
  · have hfits : Machine.buildFits b.n = false := by rw [hn]; rfl
    simp [decode, hfits]

end Sys2Proof
end

section
/-! The transactions as one relation: which instruction an agent's port values select and what it leaves of that agent
(spec/30_encoding.md R80 to R82). Each rule of `ParserMove`, `SerializerMove` and `BuilderMove` is a row of the opcode
table; `Move` is tied to the model by `Move.decode`, `Move.exec` and their converses, and later proofs go through it. -/

namespace Sys2Proof.Machine

/-- A row of the parser: the request selects the instruction where the parser is `P`, and it leaves a parser and raises an
event (spec/40_parser.md). -/
inductive ParserMove (P : ParserState) : Request → Instr → ParserState → Option Event → Prop
  | faulted (ctx : Nat) (v : Byte) (hfault : P.fault = true) :
      ParserMove P (.rx ctx v) (.feedFaulted P.step v) (parserHold P) none
  | illegalStep (ctx : Nat) (v : Byte) (hfault : P.fault = false) (hstep : P.step.legal = false) :
      ParserMove P (.rx ctx v) (.feedIllegalStep P.step v) { P with fault := true, status := .none }
        (some (.internalError P.step))
  | stxAccept (ctx : Nat) (hfault : P.fault = false) (hstep : P.step = .stx) :
      ParserMove P (.rx ctx Config.marker) .feedStxAccept
        { P with pkt := { P.pkt with stx := Config.marker }, step := .id, status := .none } none
  | stxDiscard (ctx : Nat) (v : Byte) (hfault : P.fault = false) (hstep : P.step = .stx) (hv : v ≠ Config.marker) :
      ParserMove P (.rx ctx v) (.feedStxDiscard v) (parserHold P) (some .framingDesync)
  | id (ctx : Nat) (v : Byte) (hfault : P.fault = false) (hstep : P.step = .id) :
      ParserMove P (.rx ctx v) (.feedId v) { P with pkt := { P.pkt with id := v }, step := .length, status := .none } none
  | lengthInvalid (ctx : Nat) (v : Byte) (hfault : P.fault = false) (hstep : P.step = .length)
      (hv : lengthRejected Config.payloadCap v = true) :
      ParserMove P (.rx ctx v) (.feedLengthInvalid v) (returnToStx P .invalidFrame) (some (.invalidFrameParse v))
  | length (ctx : Nat) (v : Byte) (hfault : P.fault = false) (hstep : P.step = .length)
      (hv : lengthRejected Config.payloadCap v = false) :
      ParserMove P (.rx ctx v) (.feedLength v)
        { P with pkt := { P.pkt with length := v }, cnt := 0#8, step := .command, status := .none } none
  | command (ctx : Nat) (v : Byte) (hfault : P.fault = false) (hstep : P.step = .command) :
      ParserMove P (.rx ctx v) (.feedCommand v)
        { P with pkt := { P.pkt with command := v }, step := .sequence, status := .none } none
  | sequence (ctx : Nat) (v : Byte) (hfault : P.fault = false) (hstep : P.step = .sequence) :
      ParserMove P (.rx ctx v) (.feedSequence v)
        { P with pkt := { P.pkt with sequence := v }, step := .data, status := .none } none
  | dataStore (ctx : Nat) (v : Byte) (hfault : P.fault = false) (hstep : P.step = .data)
      (hlength : 6 ≤ P.pkt.length.toNat) (hopen : payloadOpen P = true) :
      ParserMove P (.rx ctx v) (.feedDataStore v)
        { P with
          pkt := { P.pkt with payload := memWrite P.pkt.payload P.cnt.toNat v }
          cnt := P.cnt + 1#8
          status := .none } none
  | dataChkOk (ctx : Nat) (v : Byte) (hfault : P.fault = false) (hstep : P.step = .data)
      (hlength : 6 ≤ P.pkt.length.toNat) (hclosed : payloadOpen P = false) (hv : v = chkp P.pkt) :
      ParserMove P (.rx ctx v) (.feedDataChkOk v)
        (returnToStx { P with out := { P.pkt with checksum := v } } .packet) none
  | dataChkBad (ctx : Nat) (v : Byte) (hfault : P.fault = false) (hstep : P.step = .data)
      (hlength : 6 ≤ P.pkt.length.toNat) (hclosed : payloadOpen P = false) (hv : v ≠ chkp P.pkt) :
      ParserMove P (.rx ctx v) (.feedDataChkBad v) (returnToStx P .checksumMismatch)
        (some (.checksumMismatch v (chkp P.pkt)))
  | idle : ParserMove P .rxIdle .idle (parserHold P) none

/-- A row of the serializer, with the byte it hands over; `tx` is the value of `tx_byte` (spec/42_serializer.md R176 to
R181). -/
inductive SerializerMove (S : SerializerState) (tx : Byte) :
    Request → Instr → SerializerState → Option Byte → Option Event → Prop
  | start (ctx : Nat) (p : Packet) (ready : Bool) (hidle : S.busy = false) (hlength : lengthOk p.length = true) :
      SerializerMove S tx (.ser ctx true p ready) (.serStart ready p)
        { busy := true, idx := 0#8, buf := p, status := .accepted } none none
  | startInvalid (ctx : Nat) (p : Packet) (ready : Bool) (hidle : S.busy = false) (hlength : lengthOk p.length = false) :
      SerializerMove S tx (.ser ctx true p ready) (.serStartInvalid ready p) { S with status := .invalidFrame } none
        (some (.invalidFrameSerialize p.length))
  | idle (ctx : Nat) (p : Packet) (ready : Bool) (hidle : S.busy = false) :
      SerializerMove S tx (.ser ctx false p ready) (.serIdle ready) (serializerHold S) none none
  | emit (ctx : Nat) (valid : Bool) (p : Packet) (hbusy : S.busy = true) :
      SerializerMove S tx (.ser ctx valid p true) (.serEmit valid) (afterEmit S) (some tx) none
  | wait (ctx : Nat) (valid : Bool) (p : Packet) (hbusy : S.busy = true) :
      SerializerMove S tx (.ser ctx valid p false) (.serWait valid) (serializerHold S) none none

/-- A row of the builder, with its inputs and its outputs (spec/42_serializer.md R174, R175). -/
inductive BuilderMove : Request → Instr → BuilderIn → Packet → Bool → Option Event → Prop
  | build (b : BuilderIn) (hfits : buildFits b.n = true) : BuilderMove (.build b) (.build b) b (buildPkt b) false none
  | invalid (b : BuilderIn) (hfits : buildFits b.n = false) :
      BuilderMove (.build b) (.buildInvalid b) b zeroPkt true (some (.invalidFrameConstruct b.n))

/-- In the state `s` the request selects the instruction, whose transaction leaves `t`: a row of one agent, its end noted in
the record, or RESET. -/
inductive Move (s : State) : Request → Instr → State → Prop
  | parser {r : Request} {i : Instr} {P : ParserState} {e : Option Event} (h : ParserMove s.P r i P e) :
      Move s r i (parserDone s P e)
  | serializer {r : Request} {i : Instr} {S : SerializerState} {w : Option Byte} {e : Option Event}
      (h : SerializerMove s.S s.txByte r i S w e) : Move s r i (serializerDone s S w e)
  | builder {r : Request} {i : Instr} {b : BuilderIn} {p : Packet} {err : Bool} {e : Option Event}
      (h : BuilderMove r i b p err e) : Move s r i (builderDone s b p err e)
  | reset : Move s .rst .reset (resetDone s)

variable {s t : State} {r : Request} {i : Instr}

/-! ### A move is what the decoder selects and what `exec` does -/

/-- A FEED in a faulted parser (R112). -/
theorem decode_rx_faulted (hfault : s.P.fault = true) (ctx : Nat) (v : Byte) :
    decode (sampleOf (.rx ctx v) s) = .ok (.feedFaulted s.P.step v) := by
  rw [decode_rx, hfault, decodeFeed_key]
  rfl

/-- A FEED on a step code that is no step (R111). -/
theorem decode_rx_illegalStep (hfault : s.P.fault = false) (hstep : s.P.step.legal = false) (ctx : Nat) (v : Byte) :
    decode (sampleOf (.rx ctx v) s) = .ok (.feedIllegalStep s.P.step v) := by
  rw [decode_rx, hfault, decodeFeed_key]
  cases hcode : s.P.step with
  | illegal6 | illegal7 => rfl
  | _ => rw [hcode] at hstep; cases hstep

/-- A LENGTH byte that fails the length check (R105). -/
theorem decode_rx_lengthInvalid (hfault : s.P.fault = false) (hstep : s.P.step = .length) (ctx : Nat) {v : Byte}
    (hv : lengthRejected Config.payloadCap v = true) :
    decode (sampleOf (.rx ctx v) s) = .ok (.feedLengthInvalid v) := by
  rw [decode_rx, hfault, hstep, decodeFeed_key]
  simp [hv]

theorem decode_build (b : BuilderIn) (s : State) :
    decode (sampleOf (.build b) s) = .ok (if buildFits b.n then .build b else .buildInvalid b) := rfl

theorem Move.decode (h : Move s r i t) : decode (sampleOf r s) = .ok i := by
  cases h with
  | parser h =>
    cases h with
    | faulted ctx v hfault => exact decode_rx_faulted hfault ctx v
    | illegalStep ctx v hfault hstep => exact decode_rx_illegalStep hfault hstep ctx v
    | stxAccept ctx hfault hstep => exact decode_rx_stx_marker hfault ctx hstep
    | stxDiscard ctx v hfault hstep hv => exact decode_rx_stx_of_ne hfault ctx hstep hv
    | id ctx v hfault hstep => exact decode_rx_id hfault ctx hstep v
    | lengthInvalid ctx v hfault hstep hv => exact decode_rx_lengthInvalid hfault hstep ctx hv
    | length ctx v hfault hstep hv => exact decode_rx_length hfault ctx hstep hv
    | command ctx v hfault hstep => exact decode_rx_command hfault ctx hstep v
    | sequence ctx v hfault hstep => exact decode_rx_sequence hfault ctx hstep v
    | dataStore ctx v hfault hstep hlength hopen =>
      rw [decode_rx_data ((parserAtData_iff s).mpr ⟨hfault, hstep, hlength⟩), if_pos hopen]
    | dataChkOk ctx v hfault hstep hlength hclosed hv =>
      simp [decode_rx_data ((parserAtData_iff s).mpr ⟨hfault, hstep, hlength⟩), hclosed,
        (checksumAccepted_iff v _).mpr hv]
    | dataChkBad ctx v hfault hstep hlength hclosed hv =>
      simp [decode_rx_data ((parserAtData_iff s).mpr ⟨hfault, hstep, hlength⟩), hclosed,
        (checksumAccepted_eq_false_iff v _).mpr hv]
    | idle => rfl
  | serializer h => cases h <;> simp [decode_ser, *]
  | builder h => cases h <;> simp [decode_build, *]
  | reset => rfl

theorem Move.exec (h : Move s r i t) : exec i s = .next t := by
  cases h with
  | parser h =>
    cases h with
    | faulted ctx v hfault => simp [Machine.exec, execFeedFaulted, hfault]
    | illegalStep ctx v hfault hstep =>
      simp [Machine.exec, execFeedIllegalStep, raiseInternalError, parserAt, hfault, hstep]
    | stxAccept ctx hfault hstep => exact exec_feedStxAccept_next ((parserAt_iff s _).mpr ⟨hfault, hstep⟩)
    | stxDiscard ctx v hfault hstep hv => exact exec_feedStxDiscard_next ((parserAt_iff s _).mpr ⟨hfault, hstep⟩) hv
    | id ctx v hfault hstep => exact exec_feedId_next ((parserAt_iff s _).mpr ⟨hfault, hstep⟩) v
    | lengthInvalid ctx v hfault hstep hv =>
      simp [Machine.exec, execFeedLengthInvalid, recoverFrom, parserAt, hfault, hstep, hv]
    | length ctx v hfault hstep hv => exact exec_feedLength_next ((parserAt_iff s _).mpr ⟨hfault, hstep⟩) hv
    | command ctx v hfault hstep => exact exec_feedCommand_next ((parserAt_iff s _).mpr ⟨hfault, hstep⟩) v
    | sequence ctx v hfault hstep => exact exec_feedSequence_next ((parserAt_iff s _).mpr ⟨hfault, hstep⟩) v
    | dataStore ctx v hfault hstep hlength hopen =>
      exact exec_feedDataStore_next ((parserAtData_iff s).mpr ⟨hfault, hstep, hlength⟩) hopen v
    | dataChkOk ctx v hfault hstep hlength hclosed hv =>
      exact exec_feedDataChkOk_next ((parserAtData_iff s).mpr ⟨hfault, hstep, hlength⟩) hclosed
        ((checksumAccepted_iff v _).mpr hv)
    | dataChkBad ctx v hfault hstep hlength hclosed hv =>
      exact exec_feedDataChkBad_next ((parserAtData_iff s).mpr ⟨hfault, hstep, hlength⟩) hclosed
        ((checksumAccepted_eq_false_iff v _).mpr hv)
    | idle => rfl
  | serializer h =>
    cases h with
    | start ctx p ready hidle hlength => exact exec_serStart_next hidle hlength ready
    | startInvalid ctx p ready hidle hlength => exact exec_serStartInvalid_next hidle hlength ready
    | idle ctx p ready hidle => exact exec_serIdle_next hidle ready
    | emit ctx valid p hbusy => simp [Machine.exec, execSerEmit, hbusy]
    | wait ctx valid p hbusy => exact exec_serWait_next hbusy valid
  | builder h =>
    cases h with
    | build b hfits => simp [Machine.exec, execBuild, hfits]
    | invalid b hfits => simp [Machine.exec, execBuildInvalid, hfits]
  | reset => rfl

/-- Whatever the decoder selects is a move: every selected transaction completes. -/
theorem exists_move_of_decode (h : decode (sampleOf r s) = .ok i) : ∃ t, Move s r i t := by
  have of_move : ∀ {j t}, Move s r j t → ∃ t, Move s r i t := fun {j t} hmove => by
    obtain rfl : j = i := Except.ok.inj (hmove.decode.symm.trans h)
    exact ⟨t, hmove⟩
  cases r with
  | rst => exact of_move .reset
  | rxIdle => exact of_move (.parser .idle)
  | rx ctx v =>
    cases hfault : s.P.fault with
    | true => exact of_move (.parser (.faulted ctx v hfault))
    | false =>
      cases hstep : s.P.step with
      | stx =>
        by_cases hv : v = Config.marker
        · subst hv
          exact of_move (.parser (.stxAccept ctx hfault hstep))
        · exact of_move (.parser (.stxDiscard ctx v hfault hstep hv))
      | id => exact of_move (.parser (.id ctx v hfault hstep))
      | length =>
        cases hv : lengthRejected Config.payloadCap v with
        | true => exact of_move (.parser (.lengthInvalid ctx v hfault hstep hv))
        | false => exact of_move (.parser (.length ctx v hfault hstep hv))
      | command => exact of_move (.parser (.command ctx v hfault hstep))
      | sequence => exact of_move (.parser (.sequence ctx v hfault hstep))
      | data =>
        by_cases hlength : 6 ≤ s.P.pkt.length.toNat
        · cases hopen : payloadOpen s.P with
          | true => exact of_move (.parser (.dataStore ctx v hfault hstep hlength hopen))
          | false =>
            by_cases hv : v = chkp s.P.pkt
            · exact of_move (.parser (.dataChkOk ctx v hfault hstep hlength hopen hv))
            · exact of_move (.parser (.dataChkBad ctx v hfault hstep hlength hopen hv))
        · have hshort : lengthOk s.P.pkt.length = false := (lengthOk_eq_false _).mpr (by omega)
          simp [decode_rx, hfault, hstep, decodeFeed_key, dataCond, hshort] at h
      | illegal6 => exact of_move (.parser (.illegalStep ctx v hfault (by rw [hstep]; rfl)))
      | illegal7 => exact of_move (.parser (.illegalStep ctx v hfault (by rw [hstep]; rfl)))
  | ser ctx valid p ready =>
    cases hbusy : s.S.busy with
    | true =>
      cases ready with
      | true => exact of_move (.serializer (.emit ctx valid p hbusy))
      | false => exact of_move (.serializer (.wait ctx valid p hbusy))
    | false =>
      cases valid with
      | false => exact of_move (.serializer (.idle ctx p ready hbusy))
      | true =>
        cases hlength : lengthOk p.length with
        | true => exact of_move (.serializer (.start ctx p ready hbusy hlength))
        | false => exact of_move (.serializer (.startInvalid ctx p ready hbusy hlength))
  | build b =>
    cases hfits : buildFits b.n with
    | true => exact of_move (.builder (.build b hfits))
    | false => exact of_move (.builder (.invalid b hfits))

/-- Whatever `exec` answers is the move of some request. -/
theorem exists_move_of_exec (h : exec i s = .next t) : ∃ r, Move s r i t := by
  cases i with
  | feedFaulted st v =>
    simp only [exec, execFeedFaulted, whenSelected_next_iff, Bool.and_eq_true, decide_eq_true_eq] at h
    obtain ⟨⟨hfault, rfl⟩, rfl⟩ := h
    exact ⟨_, .parser (.faulted 0 v hfault)⟩
  | feedIllegalStep st v =>
    simp only [exec, execFeedIllegalStep, whenSelected_next_iff, Bool.and_eq_true, parserAt_iff,
      Bool.not_eq_true'] at h
    obtain ⟨⟨⟨hfault, rfl⟩, hstep⟩, rfl⟩ := h
    exact ⟨_, .parser (.illegalStep 0 v hfault hstep)⟩
  | feedStxAccept =>
    simp only [exec, execFeedStxAccept, whenSelected_next_iff, parserAt_iff] at h
    obtain ⟨⟨hfault, hstep⟩, rfl⟩ := h
    exact ⟨_, .parser (.stxAccept 0 hfault hstep)⟩
  | feedStxDiscard v =>
    simp only [exec, execFeedStxDiscard, whenSelected_next_iff, Bool.and_eq_true, parserAt_iff,
      decide_eq_true_eq] at h
    obtain ⟨⟨⟨hfault, hstep⟩, hv⟩, rfl⟩ := h
    exact ⟨_, .parser (.stxDiscard 0 v hfault hstep hv)⟩
  | feedId v =>
    simp only [exec, execFeedId, whenSelected_next_iff, parserAt_iff] at h
    obtain ⟨⟨hfault, hstep⟩, rfl⟩ := h
    exact ⟨_, .parser (.id 0 v hfault hstep)⟩
  | feedLengthInvalid v =>
    simp only [exec, execFeedLengthInvalid, whenSelected_next_iff, Bool.and_eq_true, parserAt_iff] at h
    obtain ⟨⟨⟨hfault, hstep⟩, hv⟩, rfl⟩ := h
    exact ⟨_, .parser (.lengthInvalid 0 v hfault hstep hv)⟩
  | feedLength v =>
    simp only [exec, execFeedLength, whenSelected_next_iff, Bool.and_eq_true, parserAt_iff,
      Bool.not_eq_true'] at h
    obtain ⟨⟨⟨hfault, hstep⟩, hv⟩, rfl⟩ := h
    exact ⟨_, .parser (.length 0 v hfault hstep hv)⟩
  | feedCommand v =>
    simp only [exec, execFeedCommand, whenSelected_next_iff, parserAt_iff] at h
    obtain ⟨⟨hfault, hstep⟩, rfl⟩ := h
    exact ⟨_, .parser (.command 0 v hfault hstep)⟩
  | feedSequence v =>
    simp only [exec, execFeedSequence, whenSelected_next_iff, parserAt_iff] at h
    obtain ⟨⟨hfault, hstep⟩, rfl⟩ := h
    exact ⟨_, .parser (.sequence 0 v hfault hstep)⟩
  | feedDataStore v =>
    simp only [exec, execFeedDataStore, whenSelected_next_iff, Bool.and_eq_true, parserAtData_iff] at h
    obtain ⟨⟨⟨hfault, hstep, hlength⟩, hopen⟩, rfl⟩ := h
    exact ⟨_, .parser (.dataStore 0 v hfault hstep hlength hopen)⟩
  | feedDataChkOk v =>
    simp only [exec, execFeedDataChkOk, whenSelected_next_iff, Bool.and_eq_true, parserAtData_iff,
      Bool.not_eq_true', checksumAccepted_iff] at h
    obtain ⟨⟨⟨⟨hfault, hstep, hlength⟩, hclosed⟩, hv⟩, rfl⟩ := h
    exact ⟨_, .parser (.dataChkOk 0 v hfault hstep hlength hclosed hv)⟩
  | feedDataChkBad v =>
    simp only [exec, execFeedDataChkBad, whenSelected_next_iff, Bool.and_eq_true, parserAtData_iff,
      Bool.not_eq_true', checksumAccepted_eq_false_iff] at h
    obtain ⟨⟨⟨⟨hfault, hstep, hlength⟩, hclosed⟩, hv⟩, rfl⟩ := h
    exact ⟨_, .parser (.dataChkBad 0 v hfault hstep hlength hclosed hv)⟩
  | idle => cases h; exact ⟨_, .parser .idle⟩
  | serStart ready p =>
    simp only [exec, execSerStart, whenSelected_next_iff, Bool.and_eq_true, Bool.not_eq_true'] at h
    obtain ⟨⟨hidle, hlength⟩, rfl⟩ := h
    exact ⟨_, .serializer (.start 0 p ready hidle hlength)⟩
  | serStartInvalid ready p =>
    simp only [exec, execSerStartInvalid, whenSelected_next_iff, Bool.and_eq_true, Bool.not_eq_true'] at h
    obtain ⟨⟨hidle, hlength⟩, rfl⟩ := h
    exact ⟨_, .serializer (.startInvalid 0 p ready hidle hlength)⟩
  | serIdle ready =>
    simp only [exec, execSerIdle, whenSelected_next_iff, Bool.not_eq_true'] at h
    obtain ⟨hidle, rfl⟩ := h
    exact ⟨_, .serializer (.idle 0 zeroPkt ready hidle)⟩
  | serEmit valid =>
    obtain ⟨hbusy, rfl⟩ := (whenSelected_next_iff ..).mp h
    exact ⟨_, .serializer (.emit 0 valid zeroPkt hbusy)⟩
  | serWait valid =>
    obtain ⟨hbusy, rfl⟩ := (whenSelected_next_iff ..).mp h
    exact ⟨_, .serializer (.wait 0 valid zeroPkt hbusy)⟩
  | build b =>
    obtain ⟨hfits, rfl⟩ := (whenSelected_next_iff ..).mp h
    exact ⟨_, .builder (.build b hfits)⟩
  | buildInvalid b =>
    simp only [exec, execBuildInvalid, whenSelected_next_iff, Bool.not_eq_true'] at h
    obtain ⟨hfits, rfl⟩ := h
    exact ⟨_, .builder (.invalid b hfits)⟩
  | reset => cases h; exact ⟨_, .reset⟩

/-- A transaction answers a next state or is refused as not selected; nothing else stops it. -/
theorem exec_next_or_notSelected (i : Instr) (s : State) :
    (∃ t, exec i s = .next t) ∨ exec i s = .refused .notSelected := by
  have hselected : ∀ (c : Bool) (t : State),
      (∃ u, whenSelected c t = .next u) ∨ whenSelected c t = .refused .notSelected := fun c t => by
    cases c
    · exact .inr rfl
    · exact .inl ⟨t, rfl⟩
  cases i with
  | idle => exact .inl ⟨_, rfl⟩
  | reset => exact .inl ⟨_, rfl⟩
  | _ => exact hselected ..

/-- Settles O4: the moves of an instruction are both what it answers and what selects it. -/
theorem transactionRunsExactlyWhereSelected : Obligations.TransactionRunsExactlyWhereSelected := by
  intro i s
  have hiff : (∃ t, exec i s = .next t) ↔ ∃ r, decode (sampleOf r s) = .ok i := by
    constructor
    · rintro ⟨t, h⟩
      obtain ⟨r, hmove⟩ := exists_move_of_exec h
      exact ⟨r, hmove.decode⟩
    · rintro ⟨r, h⟩
      obtain ⟨t, hmove⟩ := exists_move_of_decode h
      exact ⟨t, hmove.exec⟩
  exact ⟨hiff, fun hnone => (exec_next_or_notSelected i s).resolve_left (mt hiff.mp hnone)⟩

end Sys2Proof.Machine
end

section
/-! What a transaction leaves unchanged (spec/10_state.md section 3, spec/20_memory.md section 4) and what it shows
(spec/60_exceptions.md R200, R224): each fact first of the agent's rows, then of the model's transactions. -/

namespace Sys2Proof.Machine

variable {s t : State} {r : Request} {i : Instr}

/-! ### Which agent a row belongs to -/

theorem ParserMove.isFeed_or_idle {P P' : ParserState} {e : Option Event} (h : ParserMove P r i P' e) :
    isFeed i = true ∨ i = .idle := by
  cases h with
  | idle => exact .inr rfl
  | _ => exact .inl rfl

theorem SerializerMove.isSer {S S' : SerializerState} {tx : Byte} {w : Option Byte} {e : Option Event}
    (h : SerializerMove S tx r i S' w e) : isSer i = true := by
  cases h <;> rfl

theorem BuilderMove.isBuild {b : BuilderIn} {p : Packet} {err : Bool} {e : Option Event}
    (h : BuilderMove r i b p err e) : isBuild i = true := by
  cases h <;> rfl

theorem Move.exists_parser (h : Move s r i t) (hi : isFeed i = true ∨ i = .idle) :
    ∃ P e, ParserMove s.P r i P e ∧ t = parserDone s P e := by
  cases h with
  | parser h => exact ⟨_, _, h, rfl⟩
  | serializer h => cases h <;> simp [isFeed] at hi
  | builder h => cases h <;> simp [isFeed] at hi
  | reset => simp [isFeed] at hi

theorem Move.exists_serializer (h : Move s r i t) (hi : isSer i = true) :
    ∃ S w e, SerializerMove s.S s.txByte r i S w e ∧ t = serializerDone s S w e := by
  cases h with
  | parser h => cases h <;> cases hi
  | serializer h => exact ⟨_, _, _, h, rfl⟩
  | builder h => cases h <;> cases hi
  | reset => cases hi

theorem Move.exists_builder (h : Move s r i t) (hi : isBuild i = true) :
    ∃ b p err e, BuilderMove r i b p err e ∧ t = builderDone s b p err e := by
  cases h with
  | parser h => cases h <;> cases hi
  | serializer h => cases h <;> cases hi
  | builder h => exact ⟨_, _, _, _, h, rfl⟩
  | reset => cases hi

/-- The row of the serializer and what it does to `S` do not depend on the byte on `tx_byte`. -/
theorem SerializerMove.with_txByte {S S' : SerializerState} {tx : Byte} {w : Option Byte} {e : Option Event}
    (h : SerializerMove S tx r i S' w e) (tx' : Byte) : ∃ w', SerializerMove S tx' r i S' w' e := by
  cases h with
  | start ctx p ready hidle hlength => exact ⟨_, .start ctx p ready hidle hlength⟩
  | startInvalid ctx p ready hidle hlength => exact ⟨_, .startInvalid ctx p ready hidle hlength⟩
  | idle ctx p ready hidle => exact ⟨_, .idle ctx p ready hidle⟩
  | emit ctx valid p hbusy => exact ⟨_, .emit ctx valid p hbusy⟩
  | wait ctx valid p hbusy => exact ⟨_, .wait ctx valid p hbusy⟩

/-- A builder evaluation in another state. -/
theorem builderDone_keepsAllButBuilder (s : State) (b : BuilderIn) (p : Packet) (err : Bool) (e : Option Event) :
    KeepsAllButBuilder s (builderDone s b p err e) := ⟨rfl, rfl, rfl, rfl, rfl⟩

/-- Settles O30: an agent's row speaks of its own state only. -/
theorem agentsShareNoState : Obligations.AgentsShareNoState := by
  intro i s t h
  obtain ⟨r, hmove⟩ := exists_move_of_exec h
  refine ⟨fun hi => ?_, fun hi => ?_, fun hi => ?_⟩
  · obtain ⟨P, e, hp, rfl⟩ := hmove.exists_parser hi
    refine ⟨parserDone_keepsAllButParser .., fun u hu => ⟨parserDone u P e, ?_, rfl⟩⟩
    rw [← hu] at hp
    exact (Move.parser hp).exec
  · obtain ⟨S, w, e, hser, rfl⟩ := hmove.exists_serializer hi
    refine ⟨serializerDone_keepsAllButSerializer .., fun u hu => ?_⟩
    rw [← hu] at hser
    obtain ⟨w', hser'⟩ := hser.with_txByte u.txByte
    exact ⟨_, (Move.serializer hser').exec, rfl⟩
  · obtain ⟨b, p, err, e, hb, rfl⟩ := hmove.exists_builder hi
    exact ⟨builderDone_keepsAllButBuilder .., fun u => ⟨builderDone u b p err e, (Move.builder hb).exec, rfl⟩⟩

/-! ### The parser's registers -/

section ParserMove

variable {P P' : ParserState} {e : Option Event}

/-- Only FEED.DATA_CHK_OK writes `P.out` (R26). -/
theorem ParserMove.out_eq (h : ParserMove P r i P' e) (hi : ∀ v, i ≠ .feedDataChkOk v) : P'.out = P.out := by
  cases h with
  | dataChkOk ctx v => exact absurd rfl (hi v)
  | _ => rfl

/-- The parser keeps `P.fault`, but for FEED.ILLEGAL_STEP, which sets it (R32). -/
theorem ParserMove.fault_eq (h : ParserMove P r i P' e) (hi : ∀ st v, i ≠ .feedIllegalStep st v) :
    P'.fault = P.fault := by
  cases h with
  | illegalStep ctx v => exact absurd rfl (hi P.step v)
  | _ => rfl

/-- No row of the parser clears `P.fault` (R33). -/
theorem ParserMove.keeps_fault (h : ParserMove P r i P' e) (hfault : P.fault = true) : P'.fault = true := by
  cases h with
  | illegalStep => rfl
  | _ => exact hfault

/-- Only PACKET shows a packet, and only FEED.DATA_CHK_OK writes PACKET (R109). -/
theorem ParserMove.status_ne_packet (h : ParserMove P r i P' e) (hi : ∀ v, i ≠ .feedDataChkOk v) :
    P'.status ≠ .packet := by
  cases h with
  | dataChkOk ctx v => exact absurd rfl (hi v)
  | _ => exact ParserStatus.noConfusion

end ParserMove

/-- Settles O27: FEED.DATA_STORE writes cell `P.cnt`, the other rows that do not return to STX keep the payload. -/
theorem payloadWrittenOnlyByDataStore : Obligations.PayloadWrittenOnlyByDataStore := by
  intro i s t h hreturns hwf a ha
  obtain ⟨r, hmove⟩ := exists_move_of_exec h
  cases hmove with
  | parser hp =>
    cases hp with
    | dataStore ctx v =>
      rw [parserDone_P, memRead_memWrite_wf hwf, if_neg (ha ⟨v, rfl⟩)]
    | lengthInvalid | dataChkOk | dataChkBad => cases hreturns
    | _ => rfl
  | reset => cases hreturns
  | serializer | builder => rfl

/-- Settles O28: every other row of the parser keeps `P.out`, and the other agents do not touch it. -/
theorem outWrittenOnlyOnPacketOrReset : Obligations.OutWrittenOnlyOnPacketOrReset := by
  intro i s t h hout
  obtain ⟨r, hmove⟩ := exists_move_of_exec h
  cases hmove with
  | parser hp =>
    by_contra hnone
    rw [not_or, not_exists] at hnone
    exact hout (hp.out_eq hnone.1)
  | reset => exact .inr rfl
  | serializer | builder => exact absurd rfl hout

/-- Settles O29: every other row keeps `P.fault`. -/
theorem faultSetAndClearedOnlyByItsRows : Obligations.FaultSetAndClearedOnlyByItsRows := by
  intro i s t h
  obtain ⟨r, hmove⟩ := exists_move_of_exec h
  cases hmove with
  | parser hp =>
    refine ⟨fun hclear hset => ?_, fun hset hclear => absurd (hp.keeps_fault hset) (Bool.eq_false_iff.mp hclear)⟩
    by_contra hnone
    have hkept := hp.fault_eq fun st v hi => hnone ⟨st, v, hi⟩
    rw [parserDone_P, hkept, hclear] at hset
    cases hset
  | reset => exact ⟨fun _ (hset : false = true) => absurd hset Bool.false_ne_true, fun _ _ => rfl⟩
  | serializer | builder =>
    exact ⟨fun hclear hset => absurd hset (Bool.eq_false_iff.mp hclear),
      fun hset hclear => absurd hset (Bool.eq_false_iff.mp hclear)⟩

/-! ### The record -/

/-- What a FEED returns is what its entry shows (R114, R224). -/
theorem shownPacket_eq_feedResult (s : State) (P : ParserState) (e : Option Event) :
    shownPacket P = (parserDone s P e).feedResult := by
  by_cases hstatus : P.status = .packet
  · rw [shownPacket_of_eq hstatus, feedResult_eq_some hstatus, parserDone_P]
  · rw [shownPacket_of_ne hstatus, feedResult_eq_none hstatus]

/-- Of the parser's events a row raises the one its status reports (R200, R207). -/
theorem ParserMove.event_iff {P P' : ParserState} {e : Option Event} (h : ParserMove P r i P' e) :
    (P'.status = .checksumMismatch ↔ ∃ a b, e = some (.checksumMismatch a b)) ∧
      (P'.status = .invalidFrame ↔ ∃ v, e = some (.invalidFrameParse v)) := by
  cases h <;> simp

/-- The serializer's byte and event are those its row reports (R200, R207, R224). -/
theorem SerializerMove.shows {S S' : SerializerState} {tx : Byte} {w : Option Byte} {e : Option Event}
    (h : SerializerMove S tx r i S' w e) :
    (w = none ↔ ¬ ∃ x, i = .serEmit x) ∧ (S'.status = .invalidFrame ↔ ∃ v, e = some (.invalidFrameSerialize v)) ∧
      S'.status ≠ .checksumMismatch := by
  cases h <;> simp

/-- The builder's outputs are those of its inputs (R174, R175). -/
theorem BuilderMove.shows {b : BuilderIn} {p : Packet} {err : Bool} {e : Option Event} (h : BuilderMove r i b p err e) :
    p = builderPkt b ∧ err = builderErr b ∧ (err = true ↔ ∃ n, e = some (.invalidFrameConstruct n)) := by
  cases h with
  | build b hfits => simp [builderPkt, builderErr, hfits]
  | invalid b hfits => simp [builderPkt, builderErr, hfits]

/-- Settles O31: the entry is the one the row's end puts there. -/
theorem recordShowsStatusAndEvent : Obligations.RecordShowsStatusAndEvent := by
  intro i s t h
  obtain ⟨r, hmove⟩ := exists_move_of_exec h
  cases hmove with
  | parser hp =>
    exact ⟨_, rfl, hp.isFeed_or_idle, rfl, rfl, shownPacket_eq_feedResult .., hp.event_iff⟩
  | serializer hser => exact ⟨_, rfl, hser.isSer, rfl, hser.shows⟩
  | builder hb => exact ⟨_, rfl, hb.isBuild, hb.shows⟩
  | reset => exact ⟨_, rfl, rfl⟩

end Sys2Proof.Machine
end

section
/-! One request served on its own, and the step as the serving of the queue's first request (spec/00_scope.md R10,
spec/20_memory.md R63, spec/30_encoding.md R80), with the statements about single steps. -/

namespace Sys2Proof.Machine

/-- A request is admitted, its transaction selected and run; the queue plays no part. `step_of_cons` and `step_of_nil` tie
it to the model's step. -/
def serve (r : Request) (s : State) : Outcome :=
  match take r s with
  | .ok (i, s') => exec i s'
  | .error e => .refused e

variable {s s' t : State} {r : Request} {i : Instr}

theorem step_of_cons {rest : List Request} (h : s.inputs = r :: rest) : step s = serve r { s with inputs := rest } := by
  unfold step fetch
  rw [h]
  rfl

theorem step_of_nil (h : s.inputs = []) : step s = serve .rxIdle s := by
  unfold step fetch
  rw [h]
  rfl

theorem serve_of_admitted (hadmit : checkIssuer r s = .ok s') (hdecode : decode (sampleOf r s') = .ok i) :
    serve r s = exec i s' := by
  simp [serve, take, select, hadmit, hdecode]

theorem serve_of_not_admitted {e : Refusal} (hadmit : checkIssuer r s = .error e) : serve r s = .refused e := by
  simp [serve, take, hadmit]

theorem serve_of_no_row {e : DecodeError} (hadmit : checkIssuer r s = .ok s')
    (hdecode : decode (sampleOf r s') = .error e) : serve r s = .refused (.noRow e) := by
  simp [serve, take, select, hadmit, hdecode]

/-- A request answers exactly where it is admitted and has a move. -/
theorem serve_next_iff : serve r s = .next t ↔ ∃ s' i, checkIssuer r s = .ok s' ∧ Move s' r i t := by
  constructor
  · intro h
    cases hadmit : checkIssuer r s with
    | error e => rw [serve_of_not_admitted hadmit] at h; cases h
    | ok s' =>
      cases hdecode : decode (sampleOf r s') with
      | error e => rw [serve_of_no_row hadmit hdecode] at h; cases h
      | ok i =>
        rw [serve_of_admitted hadmit hdecode] at h
        obtain ⟨u, hmove⟩ := exists_move_of_decode hdecode
        obtain rfl : u = t := Host.Outcome.next.inj (hmove.exec.symm.trans h)
        exact ⟨s', i, rfl, hmove⟩
  · rintro ⟨s', i, hadmit, hmove⟩
    rw [serve_of_admitted hadmit hmove.decode, hmove.exec]

/-! ### Who drives the ports (R63) -/

theorem checkIssuer_rx {ctx : Nat} (h : s.reader = none ∨ s.reader = some ctx) (v : Byte) :
    checkIssuer (.rx ctx v) s = .ok { s with reader := some ctx } := if_pos h

theorem checkIssuer_ser {ctx : Nat} (h : s.writer = none ∨ s.writer = some ctx) (p : Packet) (ready : Bool) :
    checkIssuer (.ser ctx true p ready) s = .ok { s with writer := some ctx } := if_pos h

/-- A port that one context drives is closed to every other. -/
theorem not_free_for {holder : Option Nat} {a b : Nat} (h : holder = some a) (hne : a ≠ b) :
    ¬ (holder = none ∨ holder = some b) := by
  rw [h]
  simpa using hne

/-! ### The statements -/

/-- Settles O3: the step serves the first request, or an IDLE where there is none. -/
theorem stepRunsSelectedTransaction : Obligations.StepRunsSelectedTransaction := by
  refine ⟨fun s s' r rest i hinputs hadmit hdecode => ?_, fun s hinputs => ?_⟩
  · rw [step_of_cons hinputs, serve_of_admitted hadmit hdecode]
  · exact (step_of_nil hinputs).trans (serve_of_admitted rfl rfl)

/-- Settles O32: the port's holder decides. -/
theorem secondIssuerIsRefused : Obligations.SecondIssuerIsRefused := by
  intro s rest a b v p ready hne
  refine ⟨fun hinputs hreader => ?_, fun hinputs hwriter => ?_, fun hreader s' h => ?_, fun hwriter s' h => ?_⟩
  · exact (step_of_cons hinputs).trans (serve_of_not_admitted (if_neg (not_free_for hreader hne)))
  · exact (step_of_cons hinputs).trans (serve_of_not_admitted (if_neg (not_free_for hwriter hne)))
  · rw [checkIssuer_rx (.inl hreader)] at h
    cases h
    rfl
  · rw [checkIssuer_ser (.inl hwriter)] at h
    cases h
    rfl

/-- In DATA a FEED has no row where the payload size is undefined (70 R255). -/
theorem decode_rx_data_undefined (hfault : s.P.fault = false) (hstep : s.P.step = .data)
    (hlength : s.P.pkt.length.toNat < 6) (ctx : Nat) (v : Byte) :
    decode (sampleOf (.rx ctx v) s) = .error .payloadSizeUndefined := by
  have hcond : dataCond s.P v = none := by simp [dataCond, (lengthOk_eq_false _).mpr hlength]
  rw [decode_rx, hfault, hstep, hcond, decodeFeed_key]
  rfl

/-- Settles O33: the FEED is admitted and has no row. -/
theorem undefinedPayloadSizeIsRefused : Obligations.UndefinedPayloadSizeIsRefused := by
  intro s rest ctx v hinputs hreader hfault hstep hlength
  rw [step_of_cons hinputs]
  exact serve_of_no_row (checkIssuer_rx (s := { s with inputs := rest }) hreader v)
    (decode_rx_data_undefined hfault hstep hlength ctx v)

/-- Settles O2: RESET is selected by its own port alone. -/
theorem resetRestoresBothAgents : Obligations.ResetRestoresBothAgents := fun s =>
  ⟨(Move.reset (s := s)).decode, _, Move.reset.exec, rfl, rfl, rfl, rfl, rfl, rfl, rfl⟩

/-- Settles O9: a LENGTH below 6 fails the length check and goes through the recovery entry. -/
theorem lengthBelowSixRecovers : Obligations.LengthBelowSixRecovers := by
  intro s ctx v hfault hstep hv
  have hrejected : lengthRejected Config.payloadCap v = true := by
    rw [lengthRejected_payloadCap, (lengthOk_eq_false v).mpr hv]
    rfl
  have hmove := Move.parser (.lengthInvalid ctx v hfault hstep hrejected)
  exact ⟨hmove.decode, _, hmove.exec, rfl, parserDone_trace_of_ne_packet s _ hfault (by simp),
    parserDone_keepsAllButParser ..⟩

/-- Settles O10: no payload size of a LENGTH byte is above 249. -/
theorem lengthCheckIgnoresCapacity : Obligations.LengthCheckIgnoresCapacity := by
  intro cap v hcap
  have hsize : ¬ cap < v.toNat - Config.overhead := by
    have := v.isLt
    simp only [Config.overhead]
    omega
  simp only [lengthRejected, hsize, decide_false, Bool.or_false, Bool.not_eq_true', lengthOk_eq_false]

/-- Settles O14: the two codes are those of no step. -/
theorem illegalStepSetsFault : Obligations.IllegalStepSetsFault := by
  intro s ctx v hfault hcode
  have hcodes : ∀ st : ParseStep, st.code = 0b110#3 ∨ st.code = 0b111#3 → st.legal = false := by
    intro st
    cases st <;> decide
  have hmove := Move.parser (.illegalStep ctx v hfault (hcodes _ hcode))
  exact ⟨hmove.decode, _, hmove.exec, rfl, rfl, rfl, parserDone_keepsAllButParser ..⟩

/-- Holding the parser shows no packet. -/
theorem parserDone_parserHold_trace (s : State) (e : Option Event) :
    (parserDone s (parserHold s.P) e).trace = .parser .none none s.P.fault e :: s.trace := rfl

/-- Settles O15: FEED.FAULTED holds the parser. -/
theorem faultedParserIgnoresBytes : Obligations.FaultedParserIgnoresBytes := by
  intro s ctx v hfault
  have hmove := Move.parser (.faulted ctx v hfault)
  refine ⟨hmove.decode, _, hmove.exec, rfl, ?_, parserDone_keepsAllButParser ..⟩
  rw [parserDone_parserHold_trace, hfault]

/-- Settles O16: IDLE holds the parser. -/
theorem idleHoldsParserState : Obligations.IdleHoldsParserState := by
  intro s
  have hmove := Move.parser (ParserMove.idle (P := s.P))
  exact ⟨hmove.decode, _, hmove.exec, rfl, parserDone_parserHold_trace s none, parserDone_keepsAllButParser ..⟩

/-- Settles O1: every value is the one `State.reset` is built from. -/
theorem resetStateHoldsResetValues : Obligations.ResetStateHoldsResetValues :=
  ⟨rfl, rfl, rfl, rfl, rfl, rfl, rfl, rfl, rfl, rfl, fun a => ⟨memRead_nil a, memRead_nil a, memRead_nil a⟩⟩

end Sys2Proof.Machine
end

section
/-! The serializer's EMIT and the builder (spec/42_serializer.md R174, R175, R180). -/

namespace Sys2Proof.Machine

variable {S : SerializerState}

/-- The byte subtraction of R180 does not wrap for a frame that has a byte. -/
theorem eq_sub_one_iff {idx length : Byte} (h : 0 < length.toNat) :
    idx = length - 1#8 ↔ idx.toNat + 1 = length.toNat := by
  bv_omega

/-- At the frame's last byte an EMIT ends the frame. -/
theorem afterEmit_of_last (h : S.idx.toNat + 1 = S.buf.length.toNat) :
    afterEmit S = { S with busy := false, idx := 0#8, status := .none } :=
  if_pos ((eq_sub_one_iff (by omega)).mpr h)

/-- Before it an EMIT moves the index on. -/
theorem afterEmit_of_not_last (hpos : 0 < S.buf.length.toNat) (h : S.idx.toNat + 1 ≠ S.buf.length.toNat) :
    afterEmit S = { S with idx := S.idx + 1#8, status := .none } :=
  if_neg (mt (eq_sub_one_iff hpos).mp h)

/-- Below the frame's end the index does not wrap. -/
theorem idx_succ_toNat {idx length : Byte} (h : idx.toNat < length.toNat) : (idx + 1#8).toNat = idx.toNat + 1 := by
  bv_omega

theorem serBytes_length {p : Packet} (hlength : 6 ≤ p.length.toNat) : (serBytes p).length = p.length.toNat := by
  rw [serBytes_length_eq_payloadSize, payloadSize_eq, Nat.sub_add_cancel hlength]

/-- An index inside a frame of legal length has a byte of SER. -/
theorem serBytes_getElem?_of_lt {p : Packet} (hlength : 6 ≤ p.length.toNat) {k : Nat} (hk : k < p.length.toNat) :
    ∃ b, (serBytes p)[k]? = some b := by
  have hlt : k < (serBytes p).length := by rwa [serBytes_length hlength]
  exact ⟨_, List.getElem?_eq_getElem hlt⟩

/-- Settles O20: the index is the last one exactly where the byte comparison of R180 says so. -/
theorem serEmitHandsOverOneByte : Obligations.SerEmitHandsOverOneByte := by
  intro s ctx valid p hbusy
  have hmove := Move.serializer (SerializerMove.emit (tx := s.txByte) ctx valid p hbusy)
  refine ⟨hmove.decode, _, hmove.exec, afterEmit_buf _, afterEmit_status _, serializerDone_keepsAllButSerializer ..,
    fun hlength hidx => ⟨?_, fun hlast => ?_, fun hmore => ?_⟩⟩
  · obtain ⟨b, hb⟩ := serBytes_getElem?_of_lt hlength hidx
    refine ⟨b, hb, ?_⟩
    have hoffered : offered s.S = some b := (offered_of_busy hbusy ((lengthOk_iff _).mpr hlength)).trans hb
    rw [serializerDone_trace, afterEmit_status, txByte_of_offered hoffered]
  · rw [serializerDone_S, State.serReady, serializerDone_S, afterEmit_of_last hlast]
    exact ⟨rfl, rfl, rfl⟩
  · rw [serializerDone_S, afterEmit_of_not_last (by omega) hmore]
    exact ⟨hbusy, idx_succ_toNat hidx⟩

/-! ### BUILD -/

section Build

variable {b : BuilderIn} (hn : b.n.toNat ≤ 249)
include hn

theorem buildPkt_length_toNat : (buildPkt b).length.toNat = 6 + b.n.toNat := by
  show (BitVec.ofNat 8 (6 + b.n.toNat)).toNat = _
  rw [BitVec.toNat_ofNat]
  omega

theorem payloadSize_buildPkt : payloadSize (buildPkt b) = b.n.toNat := by
  rw [payloadSize_eq, buildPkt_length_toNat hn, Nat.add_sub_cancel_left]

theorem buildPkt_wellFormed : WellFormedPacket (buildPkt b) :=
  ⟨rfl, (lengthOk_iff _).mpr (by rw [buildPkt_length_toNat hn]; omega)⟩

theorem buildPkt_payload_wf : Memory.wf (buildPkt b).payload = true := copyFirst_wf b.data (hn.trans (by decide))

theorem memRead_buildPkt_payload (a : Nat) :
    memRead (buildPkt b).payload a = if a < b.n.toNat then memRead b.data a else 0#8 :=
  memRead_copyFirst b.data (hn.trans (by decide)) a

theorem builderPkt_of_le : builderPkt b = buildPkt b := if_pos ((buildFits_iff _).mpr hn)

end Build

/-- BUILD records the checksum of what it built, whose checksum field CHKP does not read. -/
theorem buildPkt_checksum (b : BuilderIn) : (buildPkt b).checksum = chkp (buildPkt b) := 
  (chkp_with_checksum (buildUnchecked b) _).symm

theorem buildFits_eq_false_iff (n : BitVec 9) : buildFits n = false ↔ 250 ≤ n.toNat := by
  rw [← Bool.not_eq_true, buildFits_iff]
  omega

/-- Settles O22. -/
theorem buildGivesValidPacket : Obligations.BuildGivesValidPacket := by
  intro s b hn
  have hfits : buildFits b.n = true := (buildFits_iff _).mpr hn
  have hmove := Move.builder (s := s) (.build b hfits)
  have herr : builderErr b = false := by rw [builderErr, hfits]; rfl
  have hpkt : (builderDone s b (buildPkt b) false none).bPkt = buildPkt b := builderPkt_of_le hn
  refine ⟨hmove.decode, _, hmove.exec, rfl, herr, ?_⟩
  rw [hpkt]
  exact ⟨⟨buildPkt_wellFormed hn, buildPkt_checksum b⟩, rfl, rfl, buildPkt_length_toNat hn, rfl, rfl, buildPkt_checksum b,
    buildPkt_payload_wf hn, memRead_buildPkt_payload hn, rfl, builderDone_keepsAllButBuilder ..⟩

/-- Settles O23: ZERO_PKT's length is below 6. -/
theorem overlongBuildIsInvalid : Obligations.OverlongBuildIsInvalid := by
  intro s b hn
  have hfits : buildFits b.n = false := (buildFits_eq_false_iff _).mpr hn
  have hmove := Move.builder (s := s) (.invalid b hfits)
  have hpkt : builderPkt b = zeroPkt := by simp [builderPkt, hfits]
  have herr : builderErr b = true := by rw [builderErr, hfits]; rfl
  refine ⟨hmove.decode, _, hmove.exec, rfl, herr, hpkt, rfl, builderDone_keepsAllButBuilder .., fun ctx ready hidle => ?_⟩
  have hshort : lengthOk (builderPkt b).length = false := by rw [hpkt]; rfl
  exact (Move.serializer (.startInvalid ctx _ ready hidle hshort)).decode

end Sys2Proof.Machine
end

section
/-! The invariant of the block (spec/40_parser.md R115, spec/20_memory.md R50): each part is kept by the rows of its agent,
and so by every step; what follows for the record and for the running accumulator (spec/41_checksum.md R154). -/

namespace Sys2Proof.Machine

variable {s s' t : State} {r : Request} {i : Instr} {P P' : ParserState} {e : Option Event}

/-! ### The canonical stores -/

theorem ParserMove.keeps_pkt_wf (h : ParserMove P r i P' e) (hwf : Memory.wf P.pkt.payload = true) :
    Memory.wf P'.pkt.payload = true := by
  cases h with
  | dataStore => exact memWrite_wf hwf P.cnt.isLt _
  | lengthInvalid | dataChkOk | dataChkBad => rfl
  | _ => exact hwf

theorem ParserMove.keeps_out_wf (h : ParserMove P r i P' e) (hpkt : Memory.wf P.pkt.payload = true)
    (hout : Memory.wf P.out.payload = true) : Memory.wf P'.out.payload = true := by
  cases h with
  | dataChkOk => exact hpkt
  | _ => exact hout

/-- The serializer latches the packet of a request, and no other. -/
theorem SerializerMove.keeps_buf_wf {S S' : SerializerState} {tx : Byte} {w : Option Byte}
    (h : SerializerMove S tx r i S' w e) (hrequest : r.wf = true) (hbuf : Memory.wf S.buf.payload = true) :
    Memory.wf S'.buf.payload = true := by
  cases h with
  | start => exact hrequest
  | emit => rw [afterEmit_buf]; exact hbuf
  | _ => exact hbuf

theorem BuilderMove.data_wf {b : BuilderIn} {p : Packet} {err : Bool} (h : BuilderMove r i b p err e)
    (hrequest : r.wf = true) : Memory.wf b.data = true := by
  cases h <;> exact hrequest

theorem Move.keeps_storesWf (h : Move s r i t) (hrequest : r.wf = true) (hs : StoresWf s) : StoresWf t := by
  obtain ⟨hpkt, hout, hbuf, hdata, hinputs⟩ := hs
  cases h with
  | parser h => exact ⟨h.keeps_pkt_wf hpkt, h.keeps_out_wf hpkt hout, hbuf, hdata, hinputs⟩
  | serializer h => exact ⟨hpkt, hout, h.keeps_buf_wf hrequest hbuf, hdata, hinputs⟩
  | builder h => exact ⟨hpkt, hout, hbuf, h.data_wf hrequest, hinputs⟩
  | reset => exact ⟨rfl, rfl, rfl, hdata, hinputs⟩

/-! ### The parser's invariant (R115) -/

theorem ParserInv.stx (h : ParserInv P) (hstep : P.step = .stx) : P.pkt = zeroPkt ∧ P.cnt = 0#8 := by
  simpa only [hstep] using h.2

theorem ParserInv.id (h : ParserInv P) (hstep : P.step = .id) :
    P.cnt = 0#8 ∧ P.pkt = { zeroPkt with stx := Config.marker } := by
  simpa only [hstep] using h.2

theorem ParserInv.length (h : ParserInv P) (hstep : P.step = .length) :
    P.cnt = 0#8 ∧ P.pkt = { zeroPkt with stx := Config.marker, id := P.pkt.id } := by
  simpa only [hstep] using h.2

theorem ParserInv.command (h : ParserInv P) (hstep : P.step = .command) :
    P.cnt = 0#8 ∧ WellFormedPacket P.pkt ∧ P.pkt.payload = [] := by
  simpa only [hstep] using h.2

theorem ParserInv.sequence (h : ParserInv P) (hstep : P.step = .sequence) :
    P.cnt = 0#8 ∧ WellFormedPacket P.pkt ∧ P.pkt.payload = [] := by
  simpa only [hstep] using h.2

theorem ParserInv.of_data (hfault : P.fault = false) (hstep : P.step = .data) (hcnt : P.cnt.toNat ≤ payloadSize P.pkt)
    (hwellFormed : WellFormedPacket P.pkt) (hzero : ZeroFrom P.pkt.payload P.cnt.toNat) : ParserInv P := by
  refine ⟨hfault, ?_⟩
  rw [hstep]
  exact ⟨hcnt, hwellFormed, hzero⟩

/-- In a good state the step code is that of a step (R115 a, R78). -/
theorem ParserInv.legal (h : ParserInv P) : P.step.legal = true := by
  have hcases := h.2
  cases hstep : P.step with
  | illegal6 | illegal7 => rw [hstep] at hcases; exact hcases.elim
  | _ => rfl

/-- Storing at the counter's cell leaves the cells above it 0. -/
theorem zeroFrom_memWrite {m : Memory} (hwf : Memory.wf m = true) {k : Nat} (hzero : ZeroFrom m k) (v : Byte) :
    ZeroFrom (memWrite m k v) (k + 1) := by
  intro j hcap hj
  rw [memRead_memWrite_wf hwf, if_neg (by omega)]
  exact hzero j hcap (by omega)

theorem zeroFrom_nil (k : Nat) : ZeroFrom [] k := fun _ _ _ => rfl

theorem lengthOk_of_not_rejected {v : Byte} (hv : lengthRejected Config.payloadCap v = false) : lengthOk v = true := by
  rw [lengthRejected_payloadCap] at hv
  simpa using hv

theorem ParserMove.keeps_inv (h : ParserMove P r i P' e) (hwf : Memory.wf P.pkt.payload = true) (hinv : ParserInv P) :
    ParserInv P' := by
  have hgood : P.fault = false := hinv.1
  cases h with
  | faulted ctx v hfault => rw [hgood] at hfault; cases hfault
  | illegalStep ctx v hfault hstep => rw [hinv.legal] at hstep; cases hstep
  | stxAccept ctx hfault hstep =>
    obtain ⟨hpkt, hcnt⟩ := hinv.stx hstep
    exact ⟨hgood, hcnt, by rw [hpkt]⟩
  | stxDiscard | idle => exact hinv
  | id ctx v hfault hstep =>
    obtain ⟨hcnt, hpkt⟩ := hinv.id hstep
    exact ⟨hgood, hcnt, by rw [hpkt]⟩
  | lengthInvalid | dataChkOk | dataChkBad => exact ⟨hgood, rfl, rfl⟩
  | length ctx v hfault hstep hv =>
    obtain ⟨-, hpkt⟩ := hinv.length hstep
    refine ⟨hgood, rfl, ⟨?_, lengthOk_of_not_rejected hv⟩, ?_⟩ <;> rw [hpkt]
    rfl
  | command ctx v hfault hstep => exact ⟨hgood, hinv.command hstep⟩
  | sequence ctx v hfault hstep =>
    obtain ⟨hcnt, hwellFormed, hpayload⟩ := hinv.sequence hstep
    refine ⟨hgood, ?_, hwellFormed, ?_⟩
    · rw [hcnt]
      exact Nat.zero_le _
    · show ZeroFrom P.pkt.payload _
      rw [hpayload]
      exact zeroFrom_nil _
  | dataStore ctx v hfault hstep hlength hopen =>
    obtain ⟨-, hwellFormed, hzero⟩ := hinv.data hstep
    have hcnt : (P.cnt + 1#8).toNat = P.cnt.toNat + 1 := cnt_succ_toNat_of_payloadOpen hopen
    have hlt : P.cnt.toNat < payloadSize P.pkt := (payloadOpen_iff P).mp hopen
    refine ParserInv.of_data hgood hstep ?_ hwellFormed ?_
    · show (P.cnt + 1#8).toNat ≤ payloadSize P.pkt
      rwa [hcnt]
    · show ZeroFrom (memWrite P.pkt.payload P.cnt.toNat v) (P.cnt + 1#8).toNat
      rw [hcnt]
      exact zeroFrom_memWrite hwf hzero v

/-- What FEED.DATA_CHK_OK emits in a good state is a valid packet with a zero tail (R109). -/
theorem ParserInv.emits_valid (hinv : ParserInv P) (hstep : P.step = .data) (hclosed : payloadOpen P = false) {v : Byte}
    (hv : v = chkp P.pkt) :
    ValidPacket { P.pkt with checksum := v } ∧ ZeroFrom P.pkt.payload (payloadSize P.pkt) := by
  obtain ⟨-, hwellFormed, hzero⟩ := hinv.data hstep
  rw [hinv.cnt_eq_payloadSize hstep hclosed] at hzero
  exact ⟨⟨hwellFormed, hv⟩, hzero⟩

theorem ParserMove.keeps_emitted (h : ParserMove P r i P' e) (hinv : ParserInv P) (hout : EmittedInv P.out) :
    EmittedInv P'.out := by
  cases h with
  | dataChkOk ctx v hfault hstep hlength hclosed hv => exact .inr (hinv.emits_valid hstep hclosed hv)
  | _ => exact hout

/-! ### The serializer's invariant -/

theorem SerializerInv.of_busy {S : SerializerState} (hbusy : S.busy = true) (hlength : lengthOk S.buf.length = true)
    (hidx : S.idx.toNat < S.buf.length.toNat) (hstatus : S.status ≠ .checksumMismatch) : SerializerInv S :=
  ⟨fun _ => ⟨hlength, hidx⟩, fun hidle => absurd hbusy (Bool.eq_false_iff.mp hidle), hstatus⟩

theorem SerializerInv.of_idle {S : SerializerState} (hidle : S.busy = false) (hidx : S.idx = 0#8)
    (hstatus : S.status ≠ .checksumMismatch) : SerializerInv S :=
  ⟨fun hbusy => absurd hbusy (Bool.eq_false_iff.mp hidle), fun _ => hidx, hstatus⟩

theorem afterEmit_keeps_inv {S : SerializerState} (hinv : SerializerInv S) (hbusy : S.busy = true) :
    SerializerInv (afterEmit S) := by
  obtain ⟨hlength, hidx⟩ := hinv.1 hbusy
  by_cases hlast : S.idx.toNat + 1 = S.buf.length.toNat
  · rw [afterEmit_of_last hlast]
    exact SerializerInv.of_idle rfl rfl SerStatus.noConfusion
  · rw [afterEmit_of_not_last (by omega) hlast]
    refine SerializerInv.of_busy hbusy hlength ?_ SerStatus.noConfusion
    show (S.idx + 1#8).toNat < S.buf.length.toNat
    rw [idx_succ_toNat hidx]
    omega

theorem SerializerMove.keeps_inv {S S' : SerializerState} {tx : Byte} {w : Option Byte}
    (h : SerializerMove S tx r i S' w e) (hinv : SerializerInv S) : SerializerInv S' := by
  have ⟨hsending, hidle, _⟩ := hinv
  cases h with
  | start ctx p ready _ hlength =>
    have hsix := (lengthOk_iff _).mp hlength
    exact SerializerInv.of_busy rfl hlength (Nat.lt_of_lt_of_le (Nat.succ_pos 5) hsix) SerStatus.noConfusion
  | emit ctx valid p hbusy => exact afterEmit_keeps_inv hinv hbusy
  | startInvalid | idle | wait => exact ⟨hsending, hidle, SerStatus.noConfusion⟩

/-! ### The block's invariant -/

/-- The reset values meet the agents' invariants. -/
theorem reset_agents_inv : ParserInv ParserState.reset ∧ EmittedInv ParserState.reset.out ∧
    SerializerInv SerializerState.reset :=
  ⟨⟨rfl, rfl, rfl⟩, .inl rfl, by decide⟩

theorem Move.keeps_blockInv (h : Move s r i t) (hrequest : r.wf = true) (hinv : BlockInv s) : BlockInv t := by
  have hstores := h.keeps_storesWf hrequest hinv.stores
  cases h with
  | parser h =>
    exact ⟨h.keeps_inv hinv.stores.1 hinv.parser, h.keeps_emitted hinv.parser hinv.emitted, hinv.serializer, hstores⟩
  | serializer h => exact ⟨hinv.parser, hinv.emitted, h.keeps_inv hinv.serializer, hstores⟩
  | builder h => exact ⟨hinv.parser, hinv.emitted, hinv.serializer, hstores⟩
  | reset =>
    obtain ⟨hparser, hemitted, hserializer⟩ := reset_agents_inv
    exact ⟨hparser, hemitted, hserializer, hstores⟩

/-- A step is a move of the state with the first request taken off its queue, or an IDLE where there is none; the taking
changes neither the agents nor the record. -/
theorem exists_move_of_step (h : step s = .next t) :
    ∃ s' r i, Move s' r i t ∧ s'.P = s.P ∧ s'.S = s.S ∧ s'.B = s.B ∧ s'.trace = s.trace ∧
      (∀ q ∈ s'.inputs, q ∈ s.inputs) ∧ (r ∈ s.inputs ∨ r = .rxIdle) := by
  obtain ⟨i, s', hfetch, hexec⟩ := step_next h
  obtain ⟨r, rest, hqueue, hrest, hP, hS, hB, htrace, hdecode⟩ := fetch_ok hfetch
  obtain ⟨u, hmove⟩ := exists_move_of_decode hdecode
  obtain rfl : u = t := Host.Outcome.next.inj (hmove.exec.symm.trans hexec)
  refine ⟨s', r, i, hmove, hP, hS, hB, htrace, ?_, ?_⟩
  · rw [hrest]
    rcases hqueue with hqueue | ⟨-, -, rfl⟩
    · rw [hqueue]
      exact fun q => List.mem_cons_of_mem r
    · exact fun q hq => absurd hq List.not_mem_nil
  · rcases hqueue with hqueue | ⟨-, hr, -⟩
    · rw [hqueue]
      exact .inl List.mem_cons_self
    · exact .inr hr

/-- The queue's requests, and the IDLE of an empty queue, carry canonical stores. -/
theorem request_wf_of_storesWf (hs : StoresWf s) (hr : r ∈ s.inputs ∨ r = .rxIdle) : r.wf = true := by
  obtain ⟨-, -, -, -, hinputs⟩ := hs
  rcases hr with hr | rfl
  · exact hinputs r hr
  · rfl

/-- Settles O36: the stores are kept by the taking of a request and by its move. -/
theorem storesStayCanonical : Obligations.StoresStayCanonical := by
  intro s t hs h
  obtain ⟨s', r, i, hmove, hP, hS, hB, -, hinputs, hr⟩ := exists_move_of_step h
  have hrequest := request_wf_of_storesWf hs hr
  obtain ⟨hpkt, hout, hbuf, hdata, hqueue⟩ := hs
  refine hmove.keeps_storesWf hrequest ⟨?_, ?_, ?_, ?_, fun q hq => hqueue q (hinputs q hq)⟩
  · rwa [hP]
  · rwa [hP]
  · rwa [hS]
  · rwa [hB]

/-- The invariant reads the agents, the builder's inputs and the queue only. -/
theorem BlockInv.of_eq (h : BlockInv s) (hP : s'.P = s.P) (hS : s'.S = s.S) (hB : s'.B = s.B)
    (hinputs : ∀ q ∈ s'.inputs, q ∈ s.inputs) : BlockInv s' := by
  obtain ⟨hparser, hemitted, hserializer, hpkt, hout, hbuf, hdata, hqueue⟩ := h
  refine ⟨?_, ?_, ?_, ?_, ?_, ?_, ?_, fun q hq => hqueue q (hinputs q hq)⟩
  · rwa [hP]
  · rwa [hP]
  · rwa [hS]
  · rwa [hP]
  · rwa [hP]
  · rwa [hS]
  · rwa [hB]

/-- A step from a state that meets the invariant is a move of one that meets it. -/
theorem BlockInv.exists_move_of_step (hinv : BlockInv s) (h : step s = .next t) :
    ∃ s' r i, Move s' r i t ∧ BlockInv s' ∧ r.wf = true ∧ s'.trace = s.trace := by
  obtain ⟨s', r, i, hmove, hP, hS, hB, htrace, hinputs, hr⟩ := Machine.exists_move_of_step h
  exact ⟨s', r, i, hmove, hinv.of_eq hP hS hB hinputs, request_wf_of_storesWf hinv.stores hr, htrace⟩

/-- Settles O35: a step is a move, and a move keeps the invariant agent by agent. -/
theorem blockInvariantKeptByEveryStep : Obligations.BlockInvariantKeptByEveryStep := by
  intro s t hinv h
  obtain ⟨s', r, i, hmove, hinv', hrequest, -⟩ := hinv.exists_move_of_step h
  exact hmove.keeps_blockInv hrequest hinv'

/-- Settles O34: the agents' reset values meet their invariants, and every store is empty. -/
theorem resetMeetsBlockInvariant : Obligations.ResetMeetsBlockInvariant := by
  obtain ⟨hparser, hemitted, hserializer⟩ := reset_agents_inv
  exact ⟨⟨hparser, hemitted, hserializer, rfl, rfl, rfl, rfl, fun q hq => absurd hq List.not_mem_nil⟩, rfl⟩

/-! ### The record -/

/-- A transaction adds one entry to the record; it shows a fault exactly where it is a parser's that left one. -/
theorem Move.trace_eq (h : Move s r i t) :
    ∃ o, t.trace = o :: s.trace ∧ (o.showsFault = true → t.P.fault = true) := by
  cases h with
  | parser => exact ⟨_, rfl, id⟩
  | serializer | builder | reset => exact ⟨_, rfl, fun hfault => by cases hfault⟩

/-- The record of the state after a transaction shows what its new entry shows, and what it showed before. -/
theorem faulted_cons {o : Obs} (h : t.trace = o :: s.trace) : t.faulted = (o.showsFault || s.faulted) := by
  rw [State.faulted, h]
  rfl

/-- Settles O39: a step only adds to the record. -/
theorem faultStaysRecorded : Obligations.FaultStaysRecorded := by
  intro s t hfaulted h
  obtain ⟨s', r, i, hmove, -, -, -, htrace, -, -⟩ := exists_move_of_step h
  obtain ⟨o, hcons, -⟩ := hmove.trace_eq
  rw [htrace] at hcons
  rw [faulted_cons hcons, hfaulted, Bool.or_true]

/-- Settles O38: the new entry could only show the fault of a parser that has none. -/
theorem goodRunNeverFaults : Obligations.GoodRunNeverFaults := by
  intro s t hgood h
  obtain ⟨s', r, i, hmove, hinv', hrequest, htrace⟩ := hgood.inv.exists_move_of_step h
  have hinv : BlockInv t := hmove.keeps_blockInv hrequest hinv'
  obtain ⟨o, hcons, hshows⟩ := hmove.trace_eq
  rw [htrace] at hcons
  have hclean : o.showsFault = false := Bool.eq_false_iff.mpr fun hfault => by
    have hset := hshows hfault
    rw [hinv.parser.1] at hset
    cases hset
  exact ⟨hinv, by rw [faulted_cons hcons, hclean, hgood.notFaulted]; rfl⟩

/-- A row of the parser that shows a packet shows the one it has just emitted. -/
theorem ParserMove.shownPacket_eq_some {p : Packet} (h : ParserMove P r i P' e) (hp : shownPacket P' = some p) :
    P'.status = .packet ∧ P'.out = p ∧ ∃ v, i = .feedDataChkOk v := by
  have hstatus : P'.status = .packet := by
    by_contra hne
    rw [shownPacket_of_ne hne] at hp
    cases hp
  rw [shownPacket_of_eq hstatus] at hp
  refine ⟨hstatus, Option.some.inj hp, ?_⟩
  by_contra hnone
  exact h.status_ne_packet (not_exists.mp hnone) hstatus

/-- Settles O40: the entry is that of a FEED.DATA_CHK_OK from a good state. -/
theorem emittedPacketsAreValid : Obligations.EmittedPacketsAreValid := by
  intro s t st p f e hinv h htrace
  obtain ⟨s', r, i, hmove, hinv', hrequest, -⟩ := hinv.exists_move_of_step h
  cases hmove with
  | parser hp =>
    injection htrace with hentry
    injection hentry with hst hshown
    obtain ⟨hstatus, hout, v, rfl⟩ := hp.shownPacket_eq_some hshown
    refine ⟨hst ▸ hstatus, hout, ?_⟩
    rw [← hout]
    cases hp with
    | dataChkOk ctx _ hfault hstep hlength hclosed hv => exact hinv'.parser.emits_valid hstep hclosed hv
  | serializer | builder | reset => injection htrace with hentry; cases hentry

/-! ### One reader and one writer (R63) -/

/-- In a good state every request has a row. -/
theorem ParserInv.exists_decode (hinv : ParserInv s.P) (r : Request) : ∃ i, decode (sampleOf r s) = .ok i := by
  cases r with
  | rst | rxIdle | ser | build => exact ⟨_, rfl⟩
  | rx ctx v =>
    cases hstep : s.P.step with
    | data =>
      obtain ⟨-, ⟨-, hlength⟩, -⟩ := hinv.data hstep
      exact ⟨_, decode_rx_data ((parserAtData_iff s).mpr ⟨hinv.1, hstep, (lengthOk_iff _).mp hlength⟩) ctx v⟩
    | _ =>
      rw [decode_rx, hinv.1, hstep, decodeFeed_key]
      exact ⟨_, rfl⟩

/-- A confined host's request is admitted, and the host stays confined. -/
theorem Confined.admits {reader writer : Nat} (hconfined : Confined reader writer s) {q : Request}
    (hfeeds : q.feeds = none ∨ q.feeds = some reader) (hwrites : q.writes = none ∨ q.writes = some writer) :
    ∃ s', checkIssuer q s = .ok s' ∧ Confined reader writer s' := by
  obtain ⟨hreader, hwriter, hqueue⟩ := hconfined
  cases q with
  | rst | rxIdle | build => exact ⟨s, rfl, hreader, hwriter, hqueue⟩
  | rx ctx v =>
    obtain rfl : ctx = reader := by simpa [Request.feeds] using hfeeds
    exact ⟨_, checkIssuer_rx hreader v, .inr rfl, hwriter, hqueue⟩
  | ser ctx valid p ready =>
    cases valid with
    | false => exact ⟨s, rfl, hreader, hwriter, hqueue⟩
    | true =>
      obtain rfl : ctx = writer := by simpa [Request.writes] using hwrites
      exact ⟨_, checkIssuer_ser hwriter p ready, hreader, .inr rfl, hqueue⟩

/-- A transaction changes neither the queue nor who holds the ports. -/
theorem Move.keeps_ports (h : Move s r i t) : t.inputs = s.inputs ∧ t.reader = s.reader ∧ t.writer = s.writer := by
  cases h <;> exact ⟨rfl, rfl, rfl⟩

/-- A confined host's request is served from a good state, and the host stays confined. -/
theorem serve_of_confined {reader writer : Nat} (hparser : ParserInv s.P) (hconfined : Confined reader writer s)
    {q : Request} (hfeeds : q.feeds = none ∨ q.feeds = some reader)
    (hwrites : q.writes = none ∨ q.writes = some writer) : ∃ t, serve q s = .next t ∧ Confined reader writer t := by
  obtain ⟨s', hadmit, hconfined'⟩ := Confined.admits hconfined hfeeds hwrites
  obtain ⟨hP, -⟩ := checkIssuer_ok hadmit
  rw [← hP] at hparser
  obtain ⟨i, hdecode⟩ := hparser.exists_decode q
  obtain ⟨t, hmove⟩ := exists_move_of_decode hdecode
  obtain ⟨hinputs, hreader, hwriter⟩ := hmove.keeps_ports
  refine ⟨t, serve_next_iff.mpr ⟨s', i, hadmit, hmove⟩, ?_⟩
  rw [Confined, hinputs, hreader, hwriter]
  exact hconfined'

/-- Settles O37: the queue's first request, or the IDLE of an empty queue, is served. -/
theorem confinedHostNeverStops : Obligations.ConfinedHostNeverStops := by
  intro reader writer s hinv hconfined
  have hstep : ∃ t, step s = .next t ∧ Confined reader writer t := by
    cases hinputs : s.inputs with
    | nil =>
      rw [step_of_nil hinputs]
      exact serve_of_confined hinv.parser hconfined (.inl rfl) (.inl rfl)
    | cons q rest =>
      obtain ⟨hreader, hwriter, hqueue⟩ := hconfined
      rw [hinputs] at hqueue
      obtain ⟨hfeeds, hwrites⟩ := hqueue q List.mem_cons_self
      rw [step_of_cons hinputs]
      exact serve_of_confined (s := { s with inputs := rest }) hinv.parser
        ⟨hreader, hwriter, fun p hp => hqueue p (List.mem_cons_of_mem q hp)⟩ hfeeds hwrites
  obtain ⟨t, hnext, hconfined'⟩ := hstep
  exact ⟨t, hnext, blockInvariantKeptByEveryStep s t hinv hnext, hconfined'⟩

/-! ### The running accumulator (R154) -/

/-- A payload byte stored at the end of the first `k` joins them. -/
theorem payloadBytes_memWrite {m : Memory} (hwf : Memory.wf m = true) (k : Nat) (v : Byte) :
    payloadBytes (memWrite m k v) (k + 1) = payloadBytes m k ++ [v] := by
  rw [payloadBytes_succ, memRead_memWrite_wf hwf, if_pos rfl]
  congr 1
  exact payloadBytes_congr fun j hj => by rw [memRead_memWrite_wf hwf, if_neg (by omega)]

/-- Each row of the parser that records a body byte takes it into the accumulator, and no other row does. -/
theorem ParserMove.keeps_accMatches {acc : Byte} (h : ParserMove P r i P' e) (hwf : Memory.wf P.pkt.payload = true)
    (hinv : ParserInv P) (hacc : AccMatches P acc) : AccMatches P' (accNext acc i) := by
  unfold AccMatches at hacc
  cases h with
  | faulted | illegalStep | stxDiscard | idle => exact hacc
  | stxAccept | lengthInvalid | dataChkOk | dataChkBad => exact trivial
  | id => rfl
  | length ctx v hfault hstep | command ctx v hfault hstep =>
    rw [hstep] at hacc
    rw [hacc]
    rfl
  | sequence ctx v hfault hstep =>
    obtain ⟨hcnt, -⟩ := hinv.sequence hstep
    rw [hstep] at hacc
    show chkStep acc v = chk (_ :: _ :: _ :: v :: payloadBytes _ P.cnt.toNat)
    rw [hacc, hcnt]
    rfl
  | dataStore ctx v hfault hstep hlength hopen =>
    rw [hstep] at hacc
    unfold AccMatches
    rw [hstep]
    show chkStep acc v = chk (_ :: _ :: _ :: _ :: payloadBytes _ (P.cnt + 1#8).toNat)
    rw [cnt_succ_toNat_of_payloadOpen hopen, payloadBytes_memWrite hwf, hacc]
    exact (chk_append _ v).symm

/-- The rows of the other agents leave the accumulator alone, and RESET returns the parser to STX. -/
theorem Move.keeps_accMatches {acc : Byte} (h : Move s r i t) (hwf : Memory.wf s.P.pkt.payload = true)
    (hinv : ParserInv s.P) (hacc : AccMatches s.P acc) : AccMatches t.P (accNext acc i) := by
  cases h with
  | parser h => exact h.keeps_accMatches hwf hinv hacc
  | serializer h => cases h <;> exact hacc
  | builder h => cases h <;> exact hacc
  | reset => exact trivial

/-- Settles O41: at the checksum byte the bytes stored are the whole payload. -/
theorem runningAccumulatorEqualsChkp : Obligations.RunningAccumulatorEqualsChkp := by
  refine ⟨fun s s' t i acc hinv hacc hfetch hexec => ?_, fun s acc hinv hacc hstep hclosed => ?_⟩
  · obtain ⟨r, rest, -, -, hP, -, -, -, hdecode⟩ := fetch_ok hfetch
    obtain ⟨u, hmove⟩ := exists_move_of_decode hdecode
    obtain rfl : u = t := Host.Outcome.next.inj (hmove.exec.symm.trans hexec)
    refine hmove.keeps_accMatches ?_ ?_ ?_ <;> rw [hP]
    · exact hinv.stores.1
    · exact hinv.parser
    · exact hacc
  · unfold AccMatches at hacc
    rw [hstep, hinv.parser.cnt_eq_payloadSize hstep hclosed] at hacc
    exact hacc

end Sys2Proof.Machine
end

section
/-! Packets and their checksum: what CHK detects (spec/41_checksum.md section 3), the canonical form read cell by cell, and
the packet that a frame's bytes give (spec/10_state.md R24). -/

namespace Sys2Proof.Machine

/-! ### CHK tells apart what differs in one byte -/

/-- A byte can be recovered from the accumulator before it and after it. -/
theorem chkStep_right_injective (acc : Byte) : Function.Injective (chkStep acc) := fun x y h => by
  simpa [chkStep] using h

/-- The accumulator before a byte can be recovered from the one after it. -/
theorem chkStep_left_injective (b : Byte) : Function.Injective (chkStep · b) := fun x y h => by
  simpa [chkStep] using h

theorem foldl_chkStep_injective (bs : List Byte) : Function.Injective (bs.foldl chkStep ·) := by
  induction bs with
  | nil => exact Function.injective_id
  | cons b bs ih => exact ih.comp (chkStep_left_injective b)

theorem chk_append_cons (pre post : List Byte) (x : Byte) :
    chk (pre ++ x :: post) = post.foldl chkStep (chkStep (chk pre) x) := by
  rw [chk, List.foldl_append, List.foldl_cons]
  rfl

/-- Settles O43: every byte of the checksum's recursion is invertible. -/
theorem singleByteErrorsAreDetected : Obligations.SingleByteErrorsAreDetected := by
  refine ⟨fun pre post x y hne h => hne ?_, fun p c hvalid hne h => hne ?_⟩
  · rw [chk_append_cons, chk_append_cons] at h
    exact chkStep_right_injective _ (foldl_chkStep_injective post h)
  · obtain ⟨-, hchecksum⟩ := hvalid
    obtain ⟨-, hc⟩ := h
    exact hc.trans hchecksum.symm

/-! ### Canonical buffers are determined by their cells -/

/-- The parts of the canonical form of a buffer with an entry. -/
theorem wfFrom_cons {lo a : Nat} {v : Byte} {m : Memory} (h : Memory.wfFrom lo ((a, v) :: m) = true) :
    a < Config.payloadCap ∧ v ≠ 0#8 ∧ Memory.wfFrom (a + 1) m = true ∧ Memory.wfFrom a ((a, v) :: m) = true := by
  simp only [Memory.wfFrom, Bool.and_eq_true, decide_eq_true_eq] at h
  obtain ⟨⟨⟨-, ha⟩, hv⟩, hm⟩ := h
  exact ⟨ha, hv, hm, by simp [Memory.wfFrom, ha, hv, hm]⟩

/-- A canonical buffer's first entry is not after the first entry of a canonical buffer that reads alike. -/
theorem wfFrom_first_le {lo lo' a b : Nat} {v w : Byte} {m n : Memory} (hm : Memory.wfFrom lo ((a, v) :: m) = true)
    (hn : Memory.wfFrom lo' ((b, w) :: n) = true)
    (heq : ∀ i < Config.payloadCap, memRead ((a, v) :: m) i = memRead ((b, w) :: n) i) : a ≤ b := by
  by_contra hlt
  obtain ⟨hb, hw, -, -⟩ := wfFrom_cons hn
  obtain ⟨-, -, -, ha⟩ := wfFrom_cons hm
  have hread := heq b hb
  rw [memRead_of_lt ha (by omega), memRead_cons, if_pos rfl] at hread
  exact hw hread.symm

theorem memory_ext {lo lo' : Nat} {m n : Memory} (hm : Memory.wfFrom lo m = true) (hn : Memory.wfFrom lo' n = true)
    (heq : ∀ i < Config.payloadCap, memRead m i = memRead n i) : m = n := by
  induction m generalizing lo lo' n with
  | nil =>
    cases n with
    | nil => rfl
    | cons c n =>
      obtain ⟨b, w⟩ := c
      obtain ⟨hb, hw, -, -⟩ := wfFrom_cons hn
      have hread := heq b hb
      rw [memRead_cons, if_pos rfl] at hread
      exact absurd hread.symm hw
  | cons c m ih =>
    obtain ⟨a, v⟩ := c
    obtain ⟨ha, hv, hm', -⟩ := wfFrom_cons hm
    cases n with
    | nil =>
      have hread := heq a ha
      rw [memRead_cons, if_pos rfl] at hread
      exact absurd hread hv
    | cons c n =>
      obtain ⟨b, w⟩ := c
      obtain ⟨-, -, hn', -⟩ := wfFrom_cons hn
      obtain rfl : a = b :=
        Nat.le_antisymm (wfFrom_first_le hm hn heq) (wfFrom_first_le hn hm fun i hi => (heq i hi).symm)
      have hread := heq a ha
      rw [memRead_cons, memRead_cons, if_pos rfl, if_pos rfl] at hread
      rw [hread, ih hm' hn' fun i hi => ?_]
      by_cases hi' : a = i
      · rw [memRead_of_lt hm' (by omega), memRead_of_lt hn' (by omega)]
      · have htail := heq i hi
        rwa [memRead_cons, memRead_cons, if_neg hi', if_neg hi'] at htail

/-- Canonical buffers that agree below `k` and are 0 from `k` up are equal. -/
theorem memory_eq_of_zeroFrom {m n : Memory} {k : Nat} (hm : Memory.wf m = true) (hn : Memory.wf n = true)
    (hlow : ∀ i < k, memRead m i = memRead n i) (hzm : ZeroFrom m k) (hzn : ZeroFrom n k) : m = n := by
  refine memory_ext hm hn fun i hi => ?_
  by_cases hk : i < k
  · exact hlow i hk
  · rw [hzm i hi (by omega), hzn i hi (by omega)]

/-- Settles O53: below the size the cells agree, from the size up both are 0. -/
theorem meaningfulEqualityIsEqualityOnZeroTails : Obligations.MeaningfulEqualityIsEqualityOnZeroTails := by
  intro p q hsix hp hq hzp hzq
  constructor
  · rintro ⟨hstx, hid, hlength, hcommand, hsequence, hchecksum, hcells⟩
    have hsize : payloadSize p = payloadSize q := by rw [payloadSize_eq, payloadSize_eq, hlength]
    rw [← hsize] at hzq
    have hpayload := memory_eq_of_zeroFrom hp hq (hcells ((lengthOk_iff _).mpr hsix)) hzp hzq
    obtain ⟨⟩ := p
    obtain ⟨⟩ := q
    simp_all
  · rintro rfl
    exact ⟨rfl, rfl, rfl, rfl, rfl, rfl, fun _ _ _ => rfl⟩

/-! ### The packet that a frame's bytes give -/

/-- The packet the parser assembles from SER(F): the cells below the size are copied, the cells above it are 0. -/
def received (F : Packet) : Packet := { F with payload := copyFirst F.payload (payloadSize F) }

theorem payloadSize_le_payloadCap (p : Packet) : payloadSize p ≤ Config.payloadCap :=
  (payloadSize_le p).trans (by decide)

theorem memRead_received_of_lt (F : Packet) {i : Nat} (hi : i < payloadSize F) :
    memRead (received F).payload i = memRead F.payload i := by
  rw [received, memRead_copyFirst _ (payloadSize_le_payloadCap F), if_pos hi]

theorem received_zeroFrom (F : Packet) : ZeroFrom (received F).payload (payloadSize F) := fun i _ hi => by
  rw [received, memRead_copyFirst _ (payloadSize_le_payloadCap F), if_neg (by omega)]

theorem received_wf (F : Packet) : Memory.wf (received F).payload = true :=
  copyFirst_wf _ (payloadSize_le_payloadCap F)

theorem received_meaningfullyEqual (F : Packet) : MeaningfullyEqual (received F) F :=
  ⟨rfl, rfl, rfl, rfl, rfl, rfl, fun _ _ hi => memRead_received_of_lt F hi⟩

/-- CHKP reads the cells below the size only. -/
theorem chkp_received (F : Packet) : chkp (received F) = chkp F := by
  have hcells : payloadBytes (received F).payload (payloadSize F) = payloadBytes F.payload (payloadSize F) :=
    payloadBytes_congr fun i hi => memRead_received_of_lt F hi
  show chk (F.id :: F.length :: F.command :: F.sequence :: payloadBytes (received F).payload (payloadSize F)) = chkp F
  rw [hcells]
  rfl

/-- A packet of legal length with a canonical payload and a zero tail comes back field for field. -/
theorem received_eq_self {F : Packet} (hsix : 6 ≤ F.length.toNat) (hwf : Memory.wf F.payload = true)
    (hzero : ZeroFrom F.payload (payloadSize F)) : received F = F :=
  (meaningfulEqualityIsEqualityOnZeroTails (received F) F hsix (received_wf F) hwf (received_zeroFrom F) hzero).mp
    (received_meaningfullyEqual F)

end Sys2Proof.Machine
end

section
/-! Runs of port values (spec/30_encoding.md R84): the requests of a run are served one after another on a state whose queue
is left alone, and what each kind of request can do. -/

namespace Sys2Proof.Machine

variable {s t u : State} {r : Request} {rs : List Request}

/-! ### A run serves its requests in order -/

theorem Move.with_inputs {i : Instr} (h : Move s r i t) (q : List Request) :
    Move { s with inputs := q } r i { t with inputs := q } := by
  cases h with
  | parser h => exact .parser h
  | serializer h => exact .serializer h
  | builder h => exact .builder h
  | reset => exact .reset

theorem checkIssuer_with_inputs (h : checkIssuer r s = .ok t) (q : List Request) :
    checkIssuer r { s with inputs := q } = .ok { t with inputs := q } := by
  unfold checkIssuer at h ⊢
  split at h
  · split at h <;> cases h
    exact if_pos ‹_›
  · split at h <;> cases h
    exact if_pos ‹_›
  · cases h
    rfl

/-- Serving a request does not look at the queue. -/
theorem serve_with_inputs (h : serve r s = .next t) (q : List Request) :
    serve r { s with inputs := q } = .next { t with inputs := q } := by
  obtain ⟨s', i, hadmit, hmove⟩ := serve_next_iff.mp h
  exact serve_next_iff.mpr ⟨_, i, checkIssuer_with_inputs hadmit q, hmove.with_inputs q⟩

/-- Serving a request leaves the queue alone. -/
theorem serve_inputs (h : serve r s = .next t) : t.inputs = s.inputs := by
  obtain ⟨s', i, hadmit, hmove⟩ := serve_next_iff.mp h
  obtain ⟨-, -, -, hinputs, -⟩ := checkIssuer_ok hadmit
  rw [hmove.keeps_ports.1, hinputs]

/-- The step on the placed requests of a run is the serving of the first one. -/
theorem step_drive_cons_iff : step (s.drive (r :: rs)) = .next u ↔ ∃ t, serve r s = .next t ∧ u = t.drive rs := by
  rw [step_of_cons (s := s.drive (r :: rs)) (rest := rs ++ s.inputs) rfl]
  constructor
  · intro h
    refine ⟨{ u with inputs := s.inputs }, serve_with_inputs h s.inputs, ?_⟩
    have hinputs : u.inputs = rs ++ s.inputs := serve_inputs h
    rw [State.drive, ← hinputs]
  · rintro ⟨t, h, rfl⟩
    have hdrive : t.drive rs = { t with inputs := rs ++ s.inputs } := by rw [State.drive, serve_inputs h]
    rw [hdrive]
    exact serve_with_inputs h (rs ++ s.inputs)

theorem runRequests_cons_of_next (h : serve r s = .next t) : runRequests (r :: rs) s = runRequests rs t := by
  have hstep : Host.Core.step Sys2Proof.core (s.drive (r :: rs)) = .next (t.drive rs) :=
    step_drive_cons_iff.mpr ⟨t, h, rfl⟩
  simp only [runRequests, List.length_cons, Host.Core.run]
  rw [hstep]

theorem runRequests_cons_next_iff :
    runRequests (r :: rs) s = .next u ↔ ∃ t, serve r s = .next t ∧ runRequests rs t = .next u := by
  constructor
  · intro h
    have hrun := h
    simp only [runRequests, List.length_cons, Host.Core.run] at hrun
    split at hrun
    next v hstep =>
      obtain ⟨t, hserve, -⟩ := step_drive_cons_iff.mp hstep
      exact ⟨t, hserve, (runRequests_cons_of_next hserve).symm.trans h⟩
    next => cases hrun
    next => cases hrun
  · rintro ⟨t, hserve, hrun⟩
    rw [runRequests_cons_of_next hserve, hrun]

theorem runRequests_append_of_next {rs' : List Request} (h : runRequests rs s = .next t) :
    runRequests (rs ++ rs') s = runRequests rs' t := by
  induction rs generalizing s with
  | nil => cases h; rfl
  | cons r rs ih =>
    obtain ⟨v, hserve, hrun⟩ := runRequests_cons_next_iff.mp h
    rw [List.cons_append, runRequests_cons_of_next hserve, ih hrun]

/-! ### What each kind of request can do -/

/-- A byte of the one reader is served by its row. -/
theorem serve_rx_of_move {ctx : Nat} {v : Byte} {i : Instr} {P : ParserState} {e : Option Event}
    (hreader : s.reader = none ∨ s.reader = some ctx) (h : ParserMove s.P (.rx ctx v) i P e) :
    serve (.rx ctx v) s = .next (parserDone { s with reader := some ctx } P e) :=
  serve_next_iff.mpr ⟨_, i, checkIssuer_rx hreader v, .parser h⟩

/-- A request of the parser's port: a byte or its absence. -/
def Request.forParser : Request → Bool
  | .rx _ _ | .rxIdle => true
  | .rst | .ser _ _ _ _ | .build _ => false

/-- Only the parser's rows answer its requests. -/
theorem Move.exists_parser_of_request {i : Instr} (h : Move s r i t) (hr : r.forParser = true) :
    ∃ P e, ParserMove s.P r i P e ∧ t = parserDone s P e := by
  cases h with
  | parser h => exact ⟨_, _, h, rfl⟩
  | serializer h => cases h <;> cases hr
  | builder h => cases h <;> cases hr
  | reset => cases hr

theorem Move.exists_serializer_of_request {i : Instr} {ctx : Nat} {valid : Bool} {p : Packet} {ready : Bool}
    (h : Move s (.ser ctx valid p ready) i t) :
    ∃ S w e, SerializerMove s.S s.txByte (.ser ctx valid p ready) i S w e ∧ t = serializerDone s S w e := by
  cases h with
  | parser h => cases h
  | serializer h => exact ⟨_, _, _, h, rfl⟩
  | builder h => cases h

/-- Admission to the parser's port reads and writes who holds it, and nothing else. -/
theorem checkIssuer_forParser (hr : r.forParser = true) (h : checkIssuer r s = .ok t) :
    t = { s with reader := t.reader } ∧
      ∀ v : State, v.reader = s.reader → checkIssuer r v = .ok { v with reader := t.reader } := by
  cases r with
  | rxIdle => cases h; exact ⟨rfl, fun v hv => by rw [← hv]; rfl⟩
  | rx ctx b =>
    simp only [checkIssuer] at h
    split at h
    next hreader => cases h; exact ⟨rfl, fun v hv => if_pos (by rwa [hv])⟩
    next => cases h
  | rst | ser | build => cases hr

/-- Admission to the serializer's port reads and writes who holds it, and nothing else. -/
theorem checkIssuer_ser_ok {ctx : Nat} {valid : Bool} {p : Packet} {ready : Bool}
    (h : checkIssuer (.ser ctx valid p ready) s = .ok t) :
    t = { s with writer := t.writer } ∧
      ∀ v : State, v.writer = s.writer → checkIssuer (.ser ctx valid p ready) v = .ok { v with writer := t.writer } := by
  cases valid with
  | false => cases h; exact ⟨rfl, fun v hv => by rw [← hv]; rfl⟩
  | true =>
    simp only [checkIssuer] at h
    split at h
    next hwriter => cases h; exact ⟨rfl, fun v hv => if_pos (by rwa [hv])⟩
    next => cases h

/-- The rows of the parser do not read `P.status`, and each of them writes it. -/
theorem ParserMove.of_hold_eq {P Q P' : ParserState} {i : Instr} {e : Option Event} (h : ParserMove P r i P' e)
    (hhold : parserHold Q = parserHold P) : ParserMove Q r i P' e := by
  obtain ⟨step, cnt, pkt, out, status, fault⟩ := P
  obtain ⟨step', cnt', pkt', out', status', fault'⟩ := Q
  simp only [parserHold, ParserState.mk.injEq] at hhold
  obtain ⟨rfl, rfl, rfl, rfl, -, rfl⟩ := hhold
  cases h with
  | faulted ctx v hfault => exact .faulted ctx v hfault
  | illegalStep ctx v hfault hstep => exact .illegalStep ctx v hfault hstep
  | stxAccept ctx hfault hstep => exact .stxAccept ctx hfault hstep
  | stxDiscard ctx v hfault hstep hv => exact .stxDiscard ctx v hfault hstep hv
  | id ctx v hfault hstep => exact .id ctx v hfault hstep
  | lengthInvalid ctx v hfault hstep hv => exact .lengthInvalid ctx v hfault hstep hv
  | length ctx v hfault hstep hv => exact .length ctx v hfault hstep hv
  | command ctx v hfault hstep => exact .command ctx v hfault hstep
  | sequence ctx v hfault hstep => exact .sequence ctx v hfault hstep
  | dataStore ctx v hfault hstep hlength hopen => exact .dataStore ctx v hfault hstep hlength hopen
  | dataChkOk ctx v hfault hstep hlength hclosed hv => exact .dataChkOk ctx v hfault hstep hlength hclosed hv
  | dataChkBad ctx v hfault hstep hlength hclosed hv => exact .dataChkBad ctx v hfault hstep hlength hclosed hv
  | idle => exact .idle

/-- What a parser's request does depends on who holds its port and on the parser but for its status, and it touches nothing
else. -/
theorem serve_forParser (hr : r.forParser = true) (h : serve r s = .next t) :
    ∃ reader P e, t = parserDone { s with reader := reader } P e ∧
      ∀ v : State, parserHold v.P = parserHold s.P → v.reader = s.reader →
        serve r v = .next (parserDone { v with reader := reader } P e) := by
  obtain ⟨s', i, hadmit, hmove⟩ := serve_next_iff.mp h
  obtain ⟨hs', hadmit'⟩ := checkIssuer_forParser hr hadmit
  obtain ⟨P, e, hp, rfl⟩ := hmove.exists_parser_of_request hr
  have hP : s'.P = s.P := by rw [hs']
  rw [hP] at hp
  exact ⟨s'.reader, P, e, by rw [← hs'], fun v hhold hreader =>
    serve_next_iff.mpr ⟨_, i, hadmit' v hreader, .parser (hp.of_hold_eq hhold)⟩⟩

/-- What a serializer's request does to `S` depends on the serializer and on who holds its port, and it touches nothing
else. -/
theorem serve_ser {ctx : Nat} {valid : Bool} {p : Packet} {ready : Bool}
    (h : serve (.ser ctx valid p ready) s = .next t) :
    ∃ writer S w e, t = serializerDone { s with writer := writer } S w e ∧
      ∀ v : State, v.S = s.S → v.writer = s.writer →
        ∃ w', serve (.ser ctx valid p ready) v = .next (serializerDone { v with writer := writer } S w' e) := by
  obtain ⟨s', i, hadmit, hmove⟩ := serve_next_iff.mp h
  obtain ⟨hs', hadmit'⟩ := checkIssuer_ser_ok hadmit
  obtain ⟨S, w, e, hser, rfl⟩ := hmove.exists_serializer_of_request
  refine ⟨s'.writer, S, w, e, by rw [← hs'], fun v hS hwriter => ?_⟩
  have hS' : s'.S = v.S := by rw [hs', hS]
  rw [hS'] at hser
  obtain ⟨w', hser'⟩ := hser.with_txByte { v with writer := s'.writer }.txByte
  exact ⟨w', serve_next_iff.mpr ⟨_, i, hadmit' v hwriter, .serializer hser'⟩⟩

/-- The builder's inputs always have a row, and it shows their outputs. -/
theorem exists_builderMove (b : BuilderIn) :
    ∃ i e, BuilderMove (.build b) i b (builderPkt b) (builderErr b) e := by
  cases hfits : buildFits b.n with
  | true =>
    have hmove := BuilderMove.build b hfits
    obtain ⟨hpkt, herr, -⟩ := hmove.shows
    rw [← hpkt, ← herr]
    exact ⟨_, _, hmove⟩
  | false =>
    have hmove := BuilderMove.invalid b hfits
    obtain ⟨hpkt, herr, -⟩ := hmove.shows
    rw [← hpkt, ← herr]
    exact ⟨_, _, hmove⟩

theorem serve_build (b : BuilderIn) (s : State) :
    ∃ e, serve (.build b) s = .next (builderDone s b (builderPkt b) (builderErr b) e) := by
  obtain ⟨i, e, hmove⟩ := exists_builderMove b
  exact ⟨e, serve_next_iff.mpr ⟨s, i, rfl, .builder hmove⟩⟩

theorem serve_rst (s : State) : serve .rst s = .next (resetDone s) :=
  serve_next_iff.mpr ⟨s, .reset, rfl, .reset⟩

theorem serve_rxIdle (s : State) : serve .rxIdle s = .next (parserDone s (parserHold s.P) none) :=
  serve_next_iff.mpr ⟨s, .idle, rfl, .parser .idle⟩

/-! ### The bytes and packets in the record (R224) -/

theorem emittedPackets_parser (st : ParserStatus) (p : Option Packet) (f : Bool) (e : Option Event) (trace : List Obs) :
    emittedPackets (.parser st p f e :: trace) = emittedPackets trace ++ p.toList := by
  cases p <;> simp [emittedPackets]

theorem emittedPackets_builder (p : Packet) (err : Bool) (e : Option Event) (trace : List Obs) :
    emittedPackets (.builder p err e :: trace) = emittedPackets trace := by
  simp [emittedPackets]

theorem emittedPackets_reset (trace : List Obs) : emittedPackets (.reset :: trace) = emittedPackets trace := by
  simp [emittedPackets]

theorem wireBytes_serializer (st : SerStatus) (w : Option Byte) (e : Option Event) (trace : List Obs) :
    wireBytes (.serializer st w e :: trace) = wireBytes trace ++ w.toList := by
  cases w <;> simp [wireBytes]

theorem wireBytes_builder (p : Packet) (err : Bool) (e : Option Event) (trace : List Obs) :
    wireBytes (.builder p err e :: trace) = wireBytes trace := by
  simp [wireBytes]

theorem wireBytes_reset (trace : List Obs) : wireBytes (.reset :: trace) = wireBytes trace := by
  simp [wireBytes]

end Sys2Proof.Machine
end

section
/-! The whole block and its Transport (spec/30_encoding.md R80, spec/70_reset_and_hazards.md R241, R250,
spec/60_exceptions.md R215, R216). -/

namespace Sys2Proof.Machine

variable {s t u : State}

/-- Settles O49: the second transaction does not see what the first one wrote. -/
theorem blockStepOrderIsFree : Obligations.BlockStepOrderIsFree := by
  intro p reader writer s t h
  unfold blockStep Pins.requests at h
  unfold blockStepSerFirst
  cases hrst : p.rst with
  | true =>
    rw [hrst, if_pos rfl] at h
    exact ⟨t, by simpa using h, rfl, rfl, rfl, rfl, rfl, rfl⟩
  | false =>
    rw [hrst, if_neg Bool.false_ne_true] at h
    rw [if_neg Bool.false_ne_true]
    have hparser : (if p.rxValid then Request.rx reader p.rxByte else .rxIdle).forParser = true := by
      cases p.rxValid <;> rfl
    obtain ⟨s₁, hserve₁, h⟩ := runRequests_cons_next_iff.mp h
    obtain ⟨s₂, hserve₂, h⟩ := runRequests_cons_next_iff.mp h
    obtain ⟨s₃, hserve₃, h⟩ := runRequests_cons_next_iff.mp h
    cases h
    obtain ⟨rd, P, e, rfl, hparse⟩ := serve_forParser hparser hserve₁
    obtain ⟨wr, S, w, e', rfl, hserialize⟩ := serve_ser hserve₂
    obtain ⟨e₁, hbuild₁⟩ :=
      serve_build p.b (serializerDone { parserDone { s with reader := rd } P e with writer := wr } S w e')
    obtain rfl := Host.Outcome.next.inj (hbuild₁.symm.trans hserve₃)
    obtain ⟨w', hser⟩ := hserialize s rfl rfl
    have hparse' := hparse (serializerDone { s with writer := wr } S w' e') rfl rfl
    obtain ⟨e₂, hbuild₂⟩ :=
      serve_build p.b (parserDone { serializerDone { s with writer := wr } S w' e' with reader := rd } P e)
    rw [runRequests_cons_of_next hser, runRequests_cons_of_next hparse', runRequests_cons_of_next hbuild₂]
    exact ⟨_, rfl, rfl, rfl, rfl, rfl, rfl, rfl⟩

/-- Settles O50: with `rst = 1` the run is RESET and the builder's evaluation. -/
theorem resetPreemptsOtherTransactions : Obligations.ResetPreemptsOtherTransactions := by
  intro p reader writer s hrst
  obtain ⟨e, hbuild⟩ := serve_build p.b (resetDone s)
  have hrun : blockStep p reader writer s = .next (builderDone (resetDone s) p.b (builderPkt p.b) (builderErr p.b) e) := by
    rw [blockStep, Pins.requests, if_pos hrst, runRequests_cons_of_next (serve_rst s), runRequests_cons_of_next hbuild]
    rfl
  refine ⟨_, hrun, rfl, rfl, rfl, rfl, rfl, ?_, ?_⟩
  · rw [builderDone_trace, wireBytes_builder, resetDone_trace, wireBytes_reset]
  · rw [builderDone_trace, emittedPackets_builder, resetDone_trace, emittedPackets_reset]

/-- Settles O51, by induction on the timeouts. -/
theorem readByteHidesTimeouts : Obligations.ReadByteHidesTimeouts := by
  intro k v es
  induction k with
  | zero => exact ⟨rfl, rfl, rfl⟩
  | succ k ih => exact ih

/-! ### Timeouts between bytes (R215) -/

/-- Two states that the next bytes cannot tell apart, and that have emitted the same packets. -/
def SameParsing (s u : State) : Prop :=
  emittedPackets s.trace = emittedPackets u.trace ∧ parserHold s.P = parserHold u.P ∧ s.S = u.S ∧ s.reader = u.reader

/-- A timeout is an IDLE step, which emits nothing and writes the status only (R113). -/
theorem SameParsing.idle_left (h : SameParsing s u) : SameParsing (parserDone s (parserHold s.P) none) u := by
  obtain ⟨hemitted, hhold, hS, hreader⟩ := h
  refine ⟨?_, hhold, hS, hreader⟩
  rw [parserDone_parserHold_trace, emittedPackets_parser, hemitted]
  exact List.append_nil _

/-- A byte does the same to both. -/
theorem SameParsing.serve_rx {s₁ u₁ : State} {ctx : Nat} {v : Byte} (h : SameParsing s u)
    (hs : serve (.rx ctx v) s = .next s₁) (hu : serve (.rx ctx v) u = .next u₁) : SameParsing s₁ u₁ := by
  obtain ⟨hemitted, hhold, hS, hreader⟩ := h
  obtain ⟨reader, P, e, rfl, hserve⟩ := serve_forParser rfl hs
  obtain rfl := Host.Outcome.next.inj ((hserve u hhold.symm hreader.symm).symm.trans hu)
  refine ⟨?_, rfl, hS, rfl⟩
  rw [parserDone_trace, parserDone_trace, emittedPackets_parser, emittedPackets_parser]
  exact congrArg (· ++ _) hemitted

theorem SameParsing.run {ctx : Nat} {es : List DeviceEvent} (h : SameParsing s u) {s₁ u₁ : State}
    (hs : runRequests (readerLoop ctx es) s = .next s₁)
    (hu : runRequests ((deliveredBytes es).map (.rx ctx)) u = .next u₁) : SameParsing s₁ u₁ := by
  induction es generalizing s u with
  | nil =>
    cases hs
    cases hu
    exact h
  | cons event es ih =>
    cases event with
    | timeout =>
      obtain ⟨s₂, hserve, hs⟩ := runRequests_cons_next_iff.mp hs
      obtain rfl := Host.Outcome.next.inj ((serve_rxIdle s).symm.trans hserve)
      exact ih h.idle_left hs hu
    | byte v =>
      obtain ⟨s₂, hserve, hs⟩ := runRequests_cons_next_iff.mp hs
      obtain ⟨u₂, hserve', hu⟩ := runRequests_cons_next_iff.mp hu
      exact ih (h.serve_rx hserve hserve') hs hu
    | ioError =>
      cases hs
      cases hu
      exact h

/-- Settles O52, by a simulation of the two runs. -/
theorem timeoutsDoNotChangeParsing : Obligations.TimeoutsDoNotChangeParsing := by
  intro es ctx s t u ht hu
  have hsame : SameParsing s s := ⟨rfl, rfl, rfl, rfl⟩
  obtain ⟨hemitted, hhold, hS, -⟩ := hsame.run ht hu
  exact ⟨hemitted, hhold, hS⟩

/-! ### The window of an emitted packet (R250) -/

/-- How many bytes of a frame the parser has taken when it awaits the byte of a step, the payload not counted. -/
def framePosition : ParseStep → Nat
  | .stx => 0
  | .id => 1
  | .length => 2
  | .command => 3
  | .sequence => 4
  | .data => 5
  | .illegal6 | .illegal7 => 0

theorem feedCount_cons (r : Request) (rs : List Request) : feedCount (r :: rs) = feedCount [r] + feedCount rs := by
  cases r <;> simp [feedCount, Nat.add_comm]

/-- A request moves the parser by at most one position, and only a FEED does. -/
theorem ParserMove.framePosition_le {P P' : ParserState} {r : Request} {i : Instr} {e : Option Event}
    (h : ParserMove P r i P' e) : framePosition P'.step ≤ framePosition P.step + feedCount [r] := by
  cases h with
  | faulted | illegalStep | stxDiscard | dataStore => exact Nat.le_succ _
  | idle => exact Nat.le_refl _
  | lengthInvalid | dataChkOk | dataChkBad => exact Nat.zero_le _
  | stxAccept _ _ hstep | id _ _ _ hstep | length _ _ _ hstep | command _ _ _ hstep | sequence _ _ _ hstep =>
    rw [hstep]
    exact Nat.le_refl _

/-- Before its sixth byte a frame emits nothing. -/
theorem ParserMove.out_eq_of_early {P P' : ParserState} {r : Request} {i : Instr} {e : Option Event}
    (h : ParserMove P r i P' e) (hearly : framePosition P.step + feedCount [r] ≤ 5) : P'.out = P.out := by
  refine h.out_eq fun v hi => ?_
  subst hi
  cases h with
  | dataChkOk ctx _ _ hstep =>
    rw [hstep] at hearly
    exact absurd hearly (Nat.not_succ_le_self 5)

theorem Move.window {r : Request} {i : Instr} (h : Move s r i t) (hr : r ≠ .rst)
    (hearly : framePosition s.P.step + feedCount [r] ≤ 5) :
    t.P.out = s.P.out ∧ framePosition t.P.step ≤ framePosition s.P.step + feedCount [r] := by
  cases h with
  | parser h => exact ⟨h.out_eq_of_early hearly, h.framePosition_le⟩
  | serializer | builder => exact ⟨rfl, Nat.le_add_right _ _⟩
  | reset => exact absurd rfl hr

theorem runRequests_out_eq {rs : List Request} (hrst : Request.rst ∉ rs)
    (hearly : framePosition s.P.step + feedCount rs ≤ 5) (h : runRequests rs s = .next t) : t.P.out = s.P.out := by
  induction rs generalizing s with
  | nil => cases h; rfl
  | cons r rs ih =>
    rw [feedCount_cons] at hearly
    rw [List.mem_cons, not_or] at hrst
    obtain ⟨hr, hrst⟩ := hrst
    obtain ⟨u, hserve, hrun⟩ := runRequests_cons_next_iff.mp h
    obtain ⟨s', i, hadmit, hmove⟩ := serve_next_iff.mp hserve
    obtain ⟨hP, -⟩ := checkIssuer_ok hadmit
    obtain ⟨hout, hposition⟩ := hmove.window (Ne.symm hr) (by rw [hP]; omega)
    rw [hP] at hout hposition
    rw [ih hrst (by omega) hrun, hout]

/-- Settles O47: in STX the parser is at position 0. -/
theorem emittedPacketWindow : Obligations.EmittedPacketWindow := by
  intro s t rs hstep _ hrst hcount hrun
  refine runRequests_out_eq hrst ?_ hrun
  rw [hstep]
  exact (Nat.zero_add _).trans_le hcount

/-! ### Sending a frame (R180, R216) -/

/-- The bytes the serializer has still to hand over. -/
def remaining (S : SerializerState) : List Byte := if S.busy then (serBytes S.buf).drop S.idx.toNat else []

theorem remaining_of_idle {S : SerializerState} (h : S.busy = false) : remaining S = [] := by
  simp [remaining, h]

@[simp] theorem remaining_serializerHold (S : SerializerState) : remaining (serializerHold S) = remaining S := rfl

/-- An EMIT hands over the first of the remaining bytes and leaves the others. -/
theorem remaining_eq_cons {S : SerializerState} (hinv : SerializerInv S) (hbusy : S.busy = true) :
    ∃ b, offered S = some b ∧ remaining S = b :: remaining (afterEmit S) := by
  obtain ⟨hlength, hidx⟩ := hinv.1 hbusy
  have hsix := (lengthOk_iff _).mp hlength
  have hlt : S.idx.toNat < (serBytes S.buf).length := by rwa [serBytes_length hsix]
  refine ⟨(serBytes S.buf)[S.idx.toNat], ?_, ?_⟩
  · rw [offered_of_busy hbusy hlength, List.getElem?_eq_getElem hlt]
  · rw [remaining, if_pos hbusy, List.drop_eq_getElem_cons hlt]
    congr 1
    by_cases hlast : S.idx.toNat + 1 = S.buf.length.toNat
    · rw [afterEmit_of_last hlast, remaining_of_idle rfl, hlast, ← serBytes_length hsix, List.drop_length]
    · rw [afterEmit_of_not_last (by omega) hlast, remaining, if_pos hbusy, idx_succ_toNat hidx]

/-- From `s` to `t` the bytes were handed over, in order, and the serializer is idle with its packet kept. -/
def Sent (s t : State) (bs : List Byte) : Prop :=
  wireBytes t.trace = wireBytes s.trace ++ bs ∧ t.S.busy = false ∧ t.S.buf = s.S.buf ∧ t.P = s.P ∧ t.inputs = s.inputs

theorem Sent.after_serializerDone {S : SerializerState} {w : Option Byte} {e : Option Event} {bs : List Byte}
    (h : Sent (serializerDone s S w e) t bs) (hbuf : S.buf = s.S.buf) : Sent s t (w.toList ++ bs) := by
  obtain ⟨hwire, hidle, hbuf', hP, hinputs⟩ := h
  rw [serializerDone_trace, wireBytes_serializer, List.append_assoc] at hwire
  exact ⟨hwire, hidle, hbuf'.trans hbuf, hP, hinputs⟩

/-- While nothing is requested the port is free to any context. -/
theorem serve_ser_of_move {ctx : Nat} {ready : Bool} {i : Instr} {S : SerializerState} {w : Option Byte}
    {e : Option Event} (h : SerializerMove s.S s.txByte (.ser ctx false zeroPkt ready) i S w e) :
    serve (.ser ctx false zeroPkt ready) s = .next (serializerDone s S w e) :=
  serve_next_iff.mpr ⟨s, i, rfl, .serializer h⟩

/-- While `write_byte` blocks, the serializer holds. -/
theorem serve_blocked (ctx : Nat) (s : State) :
    serve (.ser ctx false zeroPkt false) s = .next (serializerDone s (serializerHold s.S) none none) := by
  cases hbusy : s.S.busy with
  | true => exact serve_ser_of_move (.wait ctx false zeroPkt hbusy)
  | false => exact serve_ser_of_move (.idle ctx zeroPkt false hbusy)

theorem serializerHold_keeps_inv {S : SerializerState} (h : SerializerInv S) : SerializerInv (serializerHold S) := by
  obtain ⟨hbusy, hidle, -⟩ := h
  exact ⟨hbusy, hidle, SerStatus.noConfusion⟩

/-- As many acceptances as bytes remain hand over exactly those, whatever the waits between them. -/
theorem run_sinkLoop (ctx : Nat) {es : List SinkEvent} (hio : SinkEvent.ioError ∉ es) (hinv : SerializerInv s.S)
    (hcount : es.count .accepted = (remaining s.S).length) :
    ∃ t, runRequests (sinkLoop ctx es) s = .next t ∧ Sent s t (remaining s.S) := by
  induction es generalizing s with
  | nil =>
    have hnone : remaining s.S = [] := List.eq_nil_of_length_eq_zero hcount.symm
    have hidle : s.S.busy = false := Bool.eq_false_iff.mpr fun hbusy => by
      obtain ⟨b, -, hcons⟩ := remaining_eq_cons hinv hbusy
      rw [hnone] at hcons
      cases hcons
    rw [hnone]
    exact ⟨s, rfl, (List.append_nil _).symm, hidle, rfl, rfl, rfl⟩
  | cons event es ih =>
    rw [List.mem_cons, not_or] at hio
    obtain ⟨hevent, hio⟩ := hio
    cases event with
    | ioError => exact absurd rfl hevent
    | blocked =>
      obtain ⟨t, hrun, hsent⟩ := ih (s := serializerDone s (serializerHold s.S) none none) hio
        (serializerHold_keeps_inv hinv) (by simpa using hcount)
      exact ⟨t, (runRequests_cons_of_next (serve_blocked ctx s)).trans hrun, hsent.after_serializerDone rfl⟩
    | accepted =>
      rw [List.count_cons_self] at hcount
      have hbusy : s.S.busy = true := by
        by_contra hidle
        rw [remaining_of_idle (Bool.eq_false_of_not_eq_true hidle)] at hcount
        cases hcount
      obtain ⟨b, hoffered, hcons⟩ := remaining_eq_cons hinv hbusy
      have hserve := serve_ser_of_move (.emit (tx := s.txByte) ctx false zeroPkt hbusy)
      rw [txByte_of_offered hoffered] at hserve
      obtain ⟨t, hrun, hsent⟩ := ih (s := serializerDone s (afterEmit s.S) (some b) none) hio
        (afterEmit_keeps_inv hinv hbusy) (by rw [hcons] at hcount; exact Nat.succ.inj hcount)
      rw [hcons]
      exact ⟨t, (runRequests_cons_of_next hserve).trans hrun, hsent.after_serializerDone (afterEmit_buf _)⟩

/-- Settles O48: SER.START leaves all the bytes of the frame remaining. -/
theorem serializerSendsWholeFrame : Obligations.SerializerSendsWholeFrame := by
  intro s p ctx ready es hidle hsix hwriter hio hcount
  have hlength : lengthOk p.length = true := (lengthOk_iff _).mpr hsix
  have hmove := SerializerMove.start (S := s.S) (tx := { s with writer := some ctx }.txByte) ctx p ready hidle hlength
  have hserve : serve (.ser ctx true p ready) s = .next (serializerDone { s with writer := some ctx }
      { busy := true, idx := 0#8, buf := p, status := .accepted } none none) :=
    serve_next_iff.mpr ⟨_, _, checkIssuer_ser hwriter p ready, .serializer hmove⟩
  have hinv : SerializerInv { busy := true, idx := 0#8, buf := p, status := .accepted } :=
    SerializerInv.of_busy rfl hlength (Nat.lt_of_lt_of_le (Nat.succ_pos 5) hsix) SerStatus.noConfusion
  obtain ⟨t, hrun, hwire, hdone, hbuf, hP, hinputs⟩ := run_sinkLoop ctx hio (s := serializerDone
    { s with writer := some ctx } { busy := true, idx := 0#8, buf := p, status := .accepted } none none) hinv
    (hcount.trans (serBytes_length hsix).symm)
  refine ⟨t, (runRequests_cons_of_next hserve).trans hrun, ?_, hdone, hbuf, hP, hinputs⟩
  rw [hwire, serializerDone_trace, wireBytes_serializer]
  exact congrArg (· ++ serBytes p) (List.append_nil _)

end Sys2Proof.Machine
end

section
/-! Whole frames (spec/40_parser.md R116, R117, spec/42_serializer.md R182, spec/30_encoding.md R85): from STX the bytes of
SER(F) put the parser through the states `receiving F`, and the checksum byte decides. -/

namespace Sys2Proof.Machine

variable {s : State} {ctx : Nat} {P P' : ParserState} {v : Byte} {i : Instr} {k : Nat}

/-! ### FEEDs that report nothing -/

/-- The entry of a FEED with status NONE and no event. -/
abbrev quietObs : Obs := .parser .none none false none

/-- The state after `k` FEEDs of the one reader that report nothing, the parser now `P`. -/
def quietly (s : State) (ctx : Nat) (P : ParserState) (k : Nat) : State :=
  { s with P := P, reader := some ctx, trace := List.replicate k quietObs ++ s.trace }

theorem serve_rx_quiet (hreader : s.reader = none ∨ s.reader = some ctx) (h : ParserMove s.P (.rx ctx v) i P none)
    (hstatus : P.status = .none) (hfault : P.fault = false) : serve (.rx ctx v) s = .next (quietly s ctx P 1) := by
  rw [serve_rx_of_move hreader h]
  unfold parserDone
  rw [shownPacket_of_ne (by rw [hstatus]; exact ParserStatus.noConfusion), hstatus, hfault]
  rfl

theorem serve_rx_quietly (h : ParserMove P (.rx ctx v) i P' none) (hstatus : P'.status = .none)
    (hfault : P'.fault = false) : serve (.rx ctx v) (quietly s ctx P k) = .next (quietly s ctx P' (k + 1)) :=
  serve_rx_quiet (s := quietly s ctx P k) (.inr rfl) h hstatus hfault

theorem emittedPackets_replicate_quiet (k : Nat) (trace : List Obs) :
    emittedPackets (List.replicate k quietObs ++ trace) = emittedPackets trace := by
  induction k with
  | zero => rfl
  | succ k ih =>
    rw [List.replicate_succ, List.cons_append, emittedPackets_parser, ih]
    exact List.append_nil _

/-! ### The frame byte by byte -/

/-- The parser in DATA after the header and the first `k` payload bytes of `F`. -/
def receiving (F out : Packet) (k : Nat) : ParserState :=
  { step := .data
    cnt := BitVec.ofNat 8 k
    pkt := { F with payload := copyFirst F.payload k, checksum := 0#8 }
    out := out
    status := .none
    fault := false }

theorem receiving_cnt_toNat (F out : Packet) (hk : k ≤ payloadSize F) : (receiving F out k).cnt.toNat = k :=
  Nat.mod_eq_of_lt (by have := payloadSize_le F; omega)

/-- The header of a frame, from STX (R101, R103, R104, R106, R107). -/
theorem run_header {F : Packet} (hF : WellFormedPacket F) (hinv : ParserInv s.P) (hstep : s.P.step = .stx)
    (hreader : s.reader = none ∨ s.reader = some ctx) :
    runRequests ([F.stx, F.id, F.length, F.command, F.sequence].map (.rx ctx)) s =
      .next (quietly s ctx (receiving F s.P.out 0) 5) := by
  obtain ⟨hstx, hlength⟩ := hF
  obtain ⟨hpkt, -⟩ := hinv.stx hstep
  have hfault := hinv.1
  have haccepted : lengthRejected Config.payloadCap F.length = false := by
    rw [lengthRejected_payloadCap, hlength]
    rfl
  have hdone : receiving F s.P.out 0 =
      { s.P with
        pkt := { s.P.pkt with
          stx := Config.marker, id := F.id, length := F.length, command := F.command, sequence := F.sequence }
        cnt := 0#8
        step := .data
        status := .none } := by
    simp [receiving, hpkt, hfault, hstx, copyFirst]
  rw [hdone]
  simp only [List.map_cons, hstx]
  refine Eq.trans (runRequests_cons_of_next (serve_rx_quiet hreader (.stxAccept ctx hfault hstep) rfl hfault)) ?_
  refine Eq.trans (runRequests_cons_of_next (serve_rx_quietly (.id ctx F.id hfault rfl) rfl hfault)) ?_
  refine Eq.trans (runRequests_cons_of_next (serve_rx_quietly (.length ctx F.length hfault rfl haccepted) rfl hfault)) ?_
  refine Eq.trans (runRequests_cons_of_next (serve_rx_quietly (.command ctx F.command hfault rfl) rfl hfault)) ?_
  refine Eq.trans (runRequests_cons_of_next (serve_rx_quietly (.sequence ctx F.sequence hfault rfl) rfl hfault)) ?_
  rfl

/-- One payload byte (R108). -/
theorem receiving_move {F : Packet} (hsix : 6 ≤ F.length.toNat) (out : Packet) (ctx : Nat) (hk : k < payloadSize F) :
    ParserMove (receiving F out k) (.rx ctx (memRead F.payload k)) (.feedDataStore (memRead F.payload k))
      (receiving F out (k + 1)) none := by
  have hcnt : (receiving F out k).cnt.toNat = k := receiving_cnt_toNat F out hk.le
  have hopen : payloadOpen (receiving F out k) = true := by
    rw [payloadOpen_iff, hcnt]
    exact hk
  have hnext : receiving F out (k + 1) =
      { receiving F out k with
        pkt := { (receiving F out k).pkt with
          payload := memWrite (receiving F out k).pkt.payload (receiving F out k).cnt.toNat (memRead F.payload k) }
        cnt := (receiving F out k).cnt + 1#8
        status := .none } := by
    rw [hcnt]
    simp [receiving, copyFirst, BitVec.ofNat_add]
  rw [hnext]
  exact .dataStore ctx _ rfl rfl hsix hopen

/-- The header and the first `k` payload bytes of a frame, from STX. -/
theorem run_before_checksum {F : Packet} (hF : WellFormedPacket F) (hinv : ParserInv s.P) (hstep : s.P.step = .stx)
    (hreader : s.reader = none ∨ s.reader = some ctx) (hk : k ≤ payloadSize F) :
    runRequests (([F.stx, F.id, F.length, F.command, F.sequence] ++ payloadBytes F.payload k).map (.rx ctx)) s =
      .next (quietly s ctx (receiving F s.P.out k) (k + 5)) := by
  induction k with
  | zero => exact run_header hF hinv hstep hreader
  | succ k ih =>
    have hmove := receiving_move ((lengthOk_iff _).mp hF.2) s.P.out ctx (Nat.lt_of_succ_le hk)
    rw [payloadBytes_succ, ← List.append_assoc, List.map_append, runRequests_append_of_next (ih (Nat.le_of_succ_le hk)),
      Nat.add_right_comm]
    exact runRequests_cons_of_next (serve_rx_quietly hmove rfl rfl)

/-! ### The checksum byte -/

/-- The state at the checksum byte of `F`, fed from STX. -/
abbrev atChecksumOf (F : Packet) (s : State) (ctx : Nat) : State :=
  quietly s ctx (receiving F s.P.out (payloadSize F)) (payloadSize F + 5)

/-- At the checksum byte the whole payload has come, and CHKP of the packet in progress is CHKP of the frame. -/
theorem receiving_complete (F out : Packet) :
    payloadOpen (receiving F out (payloadSize F)) = false ∧ chkp (receiving F out (payloadSize F)).pkt = chkp F := by
  refine ⟨?_, chkp_received F⟩
  rw [payloadOpen_eq_false_iff, receiving_cnt_toNat F out le_rfl]
  exact le_rfl

section Frame

variable {F : Packet} (hF : WellFormedPacket F) (hinv : ParserInv s.P) (hstep : s.P.step = .stx)
  (hreader : s.reader = none ∨ s.reader = some ctx)
include hF hinv hstep hreader

theorem run_frame {e : Option Event}
    (h : ParserMove (atChecksumOf F s ctx).P (.rx ctx F.checksum) i P e) :
    runRequests ((serBytes F).map (.rx ctx)) s = .next (parserDone (atChecksumOf F s ctx) P e) := by
  rw [serBytes, List.map_append, runRequests_append_of_next (run_before_checksum hF hinv hstep hreader le_rfl)]
  exact runRequests_cons_of_next (serve_rx_of_move (s := atChecksumOf F s ctx) (.inr rfl) h)

/-- A frame with its checksum is emitted (R109). -/
theorem run_frame_ok (hchk : F.checksum = chkp F) :
    runRequests ((serBytes F).map (.rx ctx)) s = .next (parserDone (atChecksumOf F s ctx)
      (returnToStx { (atChecksumOf F s ctx).P with out := received F } .packet) none) := by
  obtain ⟨hclosed, hchkp⟩ := receiving_complete F s.P.out
  exact run_frame hF hinv hstep hreader
    (.dataChkOk ctx F.checksum rfl rfl ((lengthOk_iff _).mp hF.2) hclosed (hchk.trans hchkp.symm))

/-- A frame with another checksum is discarded (R110). -/
theorem run_frame_bad (hchk : F.checksum ≠ chkp F) :
    runRequests ((serBytes F).map (.rx ctx)) s = .next (parserDone (atChecksumOf F s ctx)
      (returnToStx (atChecksumOf F s ctx).P .checksumMismatch) (some (.checksumMismatch F.checksum (chkp F)))) := by
  obtain ⟨hclosed, hchkp⟩ := receiving_complete F s.P.out
  have hmove := ParserMove.dataChkBad (P := (atChecksumOf F s ctx).P) ctx F.checksum rfl rfl ((lengthOk_iff _).mp hF.2)
    hclosed (by rw [← hchkp] at hchk; exact hchk)
  have hrun := run_frame hF hinv hstep hreader hmove
  rw [show chkp (atChecksumOf F s ctx).P.pkt = chkp F from hchkp] at hrun
  exact hrun

end Frame

/-- Settles O44: the checksum byte is the last of the LENGTH bytes. -/
theorem frameIsConsumedWhole : Obligations.FrameIsConsumedWhole := by
  intro s F ctx hinv hstep hF hreader
  have hsix : 6 ≤ F.length.toNat := (lengthOk_iff _).mp hF.2
  have hquiet : F.length.toNat - 1 = payloadSize F + 5 := by
    rw [payloadSize_eq]
    omega
  refine ⟨serBytes_length hsix, ?_⟩
  rw [hquiet]
  by_cases hchk : F.checksum = chkp F
  · exact ⟨_, _, run_frame_ok hF hinv.parser hstep hreader hchk, rfl, rfl, rfl, rfl, rfl, rfl, rfl,
      fun _ => ⟨rfl, received_meaningfullyEqual F, received_zeroFrom F⟩, fun hne => absurd hchk hne⟩
  · exact ⟨_, _, run_frame_bad hF hinv.parser hstep hreader hchk, rfl, rfl, rfl, rfl, rfl, rfl, rfl,
      fun heq => absurd heq hchk, fun _ => ⟨rfl, rfl⟩⟩

/-- A built packet has a zero tail, so it comes back field for field. -/
theorem received_buildPkt {b : BuilderIn} (hn : b.n.toNat ≤ 249) : received (buildPkt b) = buildPkt b := by
  refine received_eq_self ((lengthOk_iff _).mp (buildPkt_wellFormed hn).2) (buildPkt_payload_wf hn) fun a _ ha => ?_
  rw [payloadSize_buildPkt hn] at ha
  rw [memRead_buildPkt_payload hn, if_neg (by omega)]

/-- Settles O45: only the entry of the checksum byte shows a packet. -/
theorem builtPacketRoundTrips : Obligations.BuiltPacketRoundTrips := by
  intro s b ctx hinv hstep hn hreader
  have hrun := run_frame_ok (buildPkt_wellFormed hn) hinv.parser hstep hreader (buildPkt_checksum b)
  rw [received_buildPkt hn] at hrun
  refine ⟨_, hrun, rfl, rfl, ?_⟩
  rw [parserDone_trace, emittedPackets_parser, shownPacket_of_eq (returnToStx_status _ _), returnToStx_out]
  exact congrArg (· ++ [buildPkt b]) (emittedPackets_replicate_quiet _ s.trace)

/-- Settles O54: the assembler's checks are BUILD's, and the expansion is the frame of what BUILD gives. -/
theorem frameLineEmitsBuiltPacket : Obligations.FrameLineEmitsBuiltPacket := by
  intro id command sequence d hd
  have hpresentable : presentable d = true := decide_eq_true hd
  cases hfits : buildFits (builderInputs id command sequence d).n with
  | false =>
    have hexpand : (Line.frame id command sequence d).expand = none := by simp [Line.expand, hfits]
    have herr : builderErr (builderInputs id command sequence d) = true := by rw [builderErr, hfits]; rfl
    exact ⟨iff_of_true hexpand herr, fun rs hrs => by rw [hexpand] at hrs; cases hrs⟩
  | true =>
    have hexpand : (Line.frame id command sequence d).expand =
        some ((serBytes (buildPkt (builderInputs id command sequence d))).map (.rx 0)) := by
      simp [Line.expand, hpresentable, hfits]
    have herr : builderErr (builderInputs id command sequence d) = false := by rw [builderErr, hfits]; rfl
    refine ⟨iff_of_false (by simp [hexpand]) (by simp [herr]), fun rs hrs => ?_⟩
    obtain rfl := Option.some.inj (hexpand.symm.trans hrs)
    have hn := (buildFits_iff _).mp hfits
    obtain ⟨t, hrun, hstatus, hout, -⟩ :=
      builtPacketRoundTrips State.reset _ 0 resetMeetsBlockInvariant.1 rfl hn (.inl rfl)
    exact ⟨t, hrun, hstatus, hout.trans (builderPkt_of_le hn).symm⟩

/-! ### Bytes without a marker -/

/-- Settles O46, by induction on the bytes: each is discarded in STX (R102). -/
theorem noMarkerNoFrame : Obligations.NoMarkerNoFrame := by
  intro s vs ctx hfault hstep hmarker hreader
  induction vs generalizing s with
  | nil => exact ⟨s, rfl, hstep, rfl, rfl, rfl, rfl⟩
  | cons v vs ih =>
    rw [List.mem_cons, not_or] at hmarker
    obtain ⟨hv, hmarker⟩ := hmarker
    have hserve := serve_rx_of_move hreader (.stxDiscard ctx v hfault hstep (Ne.symm hv))
    obtain ⟨t, hrun, hstx, hpkt, hcnt, hout, hemitted⟩ :=
      ih (parserDone { s with reader := some ctx } (parserHold s.P) (some .framingDesync)) hfault hstep hmarker (.inr rfl)
    refine ⟨t, (runRequests_cons_of_next hserve).trans hrun, hstx, hpkt, hcnt, hout, hemitted.trans ?_⟩
    rw [parserDone_trace, emittedPackets_parser]
    exact List.append_nil _

end Sys2Proof.Machine
end
